-- ==== Sys2Proof/Word.lean ====
section
/-! DEFINITION. The values of the XM block (spec/00_scope.md R11): bytes, 16-bit CRC values, 32-bit host
words, and the answer of one `Recv`. -/

namespace Sys2Proof

/-- R11: "A byte is an unsigned 8-bit value 0..255". -/
abbrev Byte := BitVec 8

/-- R11: "`u16` is an unsigned 16-bit value"; the CRC of R10. -/
abbrev U16 := BitVec 16

/-- R10: every host register is 32 bits; the byte limit, total length and byte counter are unsigned 32-bit values. -/
abbrev Word := BitVec 32

/-- R13: the answer of `Recv(T)`, `Byte(b)` or `Timeout`. -/
inductive Answer where
  | byte (b : Byte)
  | timeout
  deriving DecidableEq, Repr, Inhabited

end Sys2Proof
end

