-- ==== Sys2Proof/Config.lean ====
section
/-! DEFINITION. The parameters of the hardware (spec/00_scope.md R8, R9), the wire symbols (spec/30_encoding.md
R80, R81, R85) and the model's free values. A parameter the spec leaves open has no body here. -/

namespace Sys2Proof.Config

/-! R8: the parameters whose value the document gives. An audit that finds another literal changes one line.
(`SEQ_MOD` = 256 is the width of `Byte`: sequence arithmetic is 8-bit arithmetic, R27.) -/

/-- R8 `BLK_SMALL`: payload bytes of an SOH packet. -/
def blkSmall : Nat := 128
/-- R8 `BLK_LARGE`: payload bytes of an STX packet. -/
def blkLarge : Nat := 1024
/-- R8 `NEG_ATTEMPTS`: receiver header-wait attempts per checksum mode. -/
def negAttempts : Nat := 16
/-- R8 `T_HDR`: 10 s, in the milliseconds of the document's `read_byte(timeout_ms)`. -/
def tHdrMs : Nat := 10000
/-- R8 `RX_RETRY_CAP`: receiver retry-exceeded guard cap. -/
def rxRetryCap : Nat := 25
/-- R8 `TX_NEG_ATTEMPTS`: transmitter negotiation attempts. -/
def txNegAttempts : Nat := 16
/-- R8 `TX_RETRY_CAP`: transmissions of one packet. -/
def txRetryCap : Nat := 25
/-- R8 `EOT_TRIES`: EOT transmissions. -/
def eotTries : Nat := 10
/-- R8 `CAN_ABORT_COUNT`: CAN bytes sent by a fatal abort. -/
def canAbortCount : Nat := 3
/-- R44 `FRAME_BYTES` = 3 + 1024 + 2 = 1029, the size of the frame buffer. -/
def frameBytes : Nat := 3 + blkLarge + 2

/-! R80: the byte values the document gives. -/

def soh : Byte := 0x01#8
def stx : Byte := 0x02#8
def eot : Byte := 0x04#8
def can : Byte := 0x18#8

/-! R81, R85: the byte values this hardware takes (`ACK_BYTE`, `NAK_BYTE`, `FILL_DATA`, `FILL_CTRL` are
parameters with these defaults; notes/assumptions/10.md). -/

def ackByte : Byte := 0x06#8
def nakByte : Byte := 0x15#8
def ascC : Byte := 0x43#8
def ascG : Byte := 0x47#8
def fillData : Byte := 0x1A#8
def fillCtrl : Byte := 0x00#8

/-! R9, R67: the parameters the document leaves open. No rule depends on a timeout value (R14). -/

opaque tByteMs : Nat
opaque tCanMs : Nat
opaque tTxNegMs : Nat
opaque tTxRspMs : Nat
/-- R67: where the four registers sit in the platform's address space. -/
opaque xmBase : Nat

/-! The free values (R7, R14, R53, R56, I13): what the environment answers where `State` lists no answer.
`n` is the number of free draws made so far. Nothing in Lean can say what they are
(notes/assumptions/3.md). -/

/-- The answer of a `Recv` that `State.rx` does not list. -/
opaque freeAnswer : Nat → Answer
/-- The answer of a `Fetch` that `State.src` does not list, before the port's cut to its capacity (R52). -/
opaque freeFetch : Nat → List Byte
/-- The abort sample that `State.abort` does not list. -/
opaque freeAbort : Nat → Bool

end Sys2Proof.Config
end

