-- ==== Sys2Proof/Syntax.lean ====
section
/-! DEFINITION. The instructions: one constructor per row of spec/opcode_table.json, in the table's order
(spec/30_encoding.md, introduction: what the block decodes are bytes from the transport and words written to CMD;
what it encodes are the bytes it sends), and the encoded forms a decoder reads. -/

namespace Sys2Proof

/-- One row of the opcode table with its operands. -/
inductive Instr where
  /-- CMD.NOP (R275): bits 5:2 are ignored. -/
  | cmdNop (ignored : BitVec 4)
  /-- CMD.RECEIVE.ARITH (R276): CTRL is `control_mode`, USE1K is ignored. -/
  | cmdReceiveArith (use1k ctrl : Bool)
  /-- CMD.RECEIVE.CRC (R276). -/
  | cmdReceiveCrc (use1k ctrl : Bool)
  /-- CMD.RECEIVE.GMODE (R276). -/
  | cmdReceiveGmode (use1k ctrl : Bool)
  /-- CMD.TRANSMIT (R277): CKPREF is ignored. -/
  | cmdTransmit (ckpref : BitVec 2) (use1k ctrl : Bool)
  /-- CMD.ILLEGAL (R274): any word R94 calls illegal. -/
  | cmdIllegal (w : Word)
  /-- RX.HDR.SOH (R158). -/
  | rxHdrSoh
  /-- RX.HDR.STX (R159). -/
  | rxHdrStx
  /-- RX.HDR.EOT (R160). -/
  | rxHdrEot
  /-- RX.HDR.CAN (R161). -/
  | rxHdrCan
  /-- RX.HDR.OTHER (R162): any other byte; also the Timeout answer (R157). -/
  | rxHdrOther (r : Answer)
  /-- RX.BODY.BYTE (R165): any byte. -/
  | rxBodyByte (data : Byte)
  /-- TX.NEG.G (R204). -/
  | txNegG
  /-- TX.NEG.C (R204). -/
  | txNegC
  /-- TX.NEG.NAK (R204). -/
  | txNegNak
  /-- TX.NEG.CAN (R205). -/
  | txNegCan
  /-- TX.NEG.OTHER (R206): any other byte; also the Timeout answer. -/
  | txNegOther (r : Answer)
  /-- TX.RSP.ACK (R211). -/
  | txRspAck
  /-- TX.RSP.CAN (R211). -/
  | txRspCan
  /-- TX.RSP.NAK (R211). -/
  | txRspNak
  /-- TX.RSP.OTHER (R211): any other byte; also the Timeout answer. -/
  | txRspOther (r : Answer)
  /-- TX.EOT.ACK (R214). -/
  | txEotAck
  /-- TX.EOT.OTHER (R214): any other byte; also the Timeout answer. -/
  | txEotOther (r : Answer)
  /-- EMIT.NEG.G (R156). -/
  | emitNegG
  /-- EMIT.NEG.C (R156). -/
  | emitNegC
  /-- EMIT.NEG.NAK (R156). -/
  | emitNegNak
  /-- EMIT.ACK (R160, R169, R170, R175). -/
  | emitAck
  /-- EMIT.NAK (R166, R168). -/
  | emitNak
  /-- EMIT.CAN3 (R303): three CAN bytes, one `Send` event each. -/
  | emitCan3
  /-- EMIT.EOT (R214). -/
  | emitEot
  /-- FRAME.SOH.ARITH (R82): 128 payload bytes, 1-byte additive trailer. -/
  | frameSohArith (seq cpl : Byte) (payload : List Byte) (sum : Byte)
  /-- FRAME.SOH.CRC (R82): 128 payload bytes, 2-byte trailer. -/
  | frameSohCrc (seq cpl : Byte) (payload : List Byte) (crc : U16)
  /-- FRAME.STX.ARITH (R82): 1024 payload bytes, 1-byte additive trailer. -/
  | frameStxArith (seq cpl : Byte) (payload : List Byte) (sum : Byte)
  /-- FRAME.STX.CRC (R82): 1024 payload bytes, 2-byte trailer. -/
  | frameStxCrc (seq cpl : Byte) (payload : List Byte) (crc : U16)
  deriving DecidableEq, Repr

/-- The reads whose answer a row decodes (the `format` column: "answer to …"). -/
inductive AnswerPoint where
  /-- receiver header wait `Recv(T_HDR)` (R86) -/
  | hdr
  /-- body `Recv(T_BYTE)` (R165) -/
  | body
  /-- transmitter negotiation `Recv(T_TXNEG)` (R87) -/
  | neg
  /-- transmitter data-packet response `Recv(T_TXRSP)` (R88) -/
  | rsp
  /-- transmitter EOT `Recv(T_TXRSP)` (R88) -/
  | eot
  deriving DecidableEq, Repr

/-- The symbols the block sends by itself (R90), by the row family that encodes them. -/
inductive SentPoint where
  | neg
  | ack
  | nak
  | can3
  | eot
  deriving DecidableEq, Repr

/-- An encoded instruction WITH THE POINT IT STANDS AT: 30_encoding.md says that the meaning of a byte "depends on
where the sequencer is", so 0x18 is a row of its own at each of three reads. -/
inductive Code where
  /-- a 32-bit word written to CMD -/
  | cmdWord (w : Word)
  /-- what a `Recv` answered at that read -/
  | answer (p : AnswerPoint) (r : Answer)
  /-- the bytes sent at that point -/
  | sent (p : SentPoint) (bytes : List Byte)
  /-- the bytes of a packet frame -/
  | frame (bytes : List Byte)
  deriving DecidableEq, Repr

end Sys2Proof
end

