-- ==== Sys2Proof/WellFormed.lean ====
section
/-! DEFINITION. Which terms of `Instr` are instructions: the operands a row's encoding admits
(spec/30_encoding.md R82, R86 to R88, R94; spec/opcode_table.json). -/

namespace Sys2Proof

/-- R94: a CMD word with any of bits 31:6 set, or with OP = 11, or with OP = 01 and CKPREF = 11. -/
def illegalWord (w : Word) : Bool :=
  w.extractLsb' 6 26 != 0#26 || w.extractLsb' 0 2 == 3#2
    || (w.extractLsb' 0 2 == 1#2 && w.extractLsb' 2 2 == 3#2)

/-- An answer none of whose listed bytes has a row of its own: any other byte, or a Timeout. -/
def otherThan (listed : List Byte) : Answer → Bool
  | .byte b => !listed.contains b
  | .timeout => true

/-- The operands of every row are ones its encoding admits. A frame whose complement or trailer is wrong is still
a frame (the validator classifies it, R134), so only its length is checked here. -/
def Instr.wf : Instr → Bool
  | .cmdIllegal w => illegalWord w
  | .rxHdrOther r => otherThan [Config.soh, Config.stx, Config.eot, Config.can] r
  | .txNegOther r => otherThan [Config.ascG, Config.ascC, Config.nakByte, Config.can] r
  | .txRspOther r => otherThan [Config.ackByte, Config.nakByte, Config.can] r
  | .txEotOther r => otherThan [Config.ackByte] r
  | .frameSohArith _ _ p _ => p.length == Config.blkSmall
  | .frameSohCrc _ _ p _ => p.length == Config.blkSmall
  | .frameStxArith _ _ p _ => p.length == Config.blkLarge
  | .frameStxCrc _ _ p _ => p.length == Config.blkLarge
  | .cmdNop _ => true
  | .cmdReceiveArith _ _ => true
  | .cmdReceiveCrc _ _ => true
  | .cmdReceiveGmode _ _ => true
  | .cmdTransmit _ _ _ => true
  | .rxHdrSoh => true
  | .rxHdrStx => true
  | .rxHdrEot => true
  | .rxHdrCan => true
  | .rxBodyByte _ => true
  | .txNegG => true
  | .txNegC => true
  | .txNegNak => true
  | .txNegCan => true
  | .txRspAck => true
  | .txRspCan => true
  | .txRspNak => true
  | .txEotAck => true
  | .emitNegG => true
  | .emitNegC => true
  | .emitNegNak => true
  | .emitAck => true
  | .emitNak => true
  | .emitCan3 => true
  | .emitEot => true

end Sys2Proof
end

