-- ==== Sys2Proof/Decode.lean ====
section
/-! DEFINITION. The decoder (spec/30_encoding.md R82 to R94), total on every encoded form and rejecting by name,
and after it the encoder, written from the same tables. -/

namespace Sys2Proof

/-- Why an encoded form is no row of the table. -/
inductive Reject where
  /-- a body read that timed out is no RX.BODY.BYTE (R166: the sequencer answers it) -/
  | bodyTimeout
  /-- a byte the block never sends at that point (R90) -/
  | notASentSymbol
  /-- a frame is 132, 133, 1028 or 1029 bytes long (R83) -/
  | notAFrameLength
  /-- the header byte of a frame of that length is SOH or STX (R82) -/
  | notAFrameHeader
  deriving DecidableEq, Repr

/-! ### CMD words (R91 to R94) -/

/-- R91 OP, bits 1:0. -/
def cmdOp (w : Word) : BitVec 2 := w.extractLsb' 0 2
/-- R91 CKPREF, bits 3:2. -/
def cmdCkpref (w : Word) : BitVec 2 := w.extractLsb' 2 2
/-- R91 USE1K, bit 4. -/
def cmdUse1k (w : Word) : Bool := w.getLsbD 4
/-- R91 CTRL, bit 5. -/
def cmdCtrl (w : Word) : Bool := w.getLsbD 5
/-- R91 reserved bits 31:6. -/
def cmdReserved (w : Word) : BitVec 26 := w.extractLsb' 6 26

/-- R92, R94; R274: "the legality test precedes the OP decode". -/
def decodeCmd (w : Word) : Instr :=
  if cmdReserved w ≠ 0#26 then .cmdIllegal w
  else if cmdOp w = 0#2 then .cmdNop (w.extractLsb' 2 4)
  else if cmdOp w = 2#2 then .cmdTransmit (cmdCkpref w) (cmdUse1k w) (cmdCtrl w)
  else if cmdOp w = 3#2 then .cmdIllegal w
  else if cmdCkpref w = 0#2 then .cmdReceiveArith (cmdUse1k w) (cmdCtrl w)
  else if cmdCkpref w = 1#2 then .cmdReceiveCrc (cmdUse1k w) (cmdCtrl w)
  else if cmdCkpref w = 2#2 then .cmdReceiveGmode (cmdUse1k w) (cmdCtrl w)
  else .cmdIllegal w

/-! ### Received bytes (R86 to R88) -/

/-- R86, in its priority order. -/
def decodeHdr (r : Answer) : Instr :=
  match r with
  | .timeout => .rxHdrOther .timeout
  | .byte b =>
    if b = Config.soh then .rxHdrSoh
    else if b = Config.stx then .rxHdrStx
    else if b = Config.eot then .rxHdrEot
    else if b = Config.can then .rxHdrCan
    else .rxHdrOther (.byte b)

/-- R87. -/
def decodeNeg (r : Answer) : Instr :=
  match r with
  | .timeout => .txNegOther .timeout
  | .byte b =>
    if b = Config.ascG then .txNegG
    else if b = Config.ascC then .txNegC
    else if b = Config.nakByte then .txNegNak
    else if b = Config.can then .txNegCan
    else .txNegOther (.byte b)

/-- R88, the data-packet response. -/
def decodeRsp (r : Answer) : Instr :=
  match r with
  | .timeout => .txRspOther .timeout
  | .byte b =>
    if b = Config.ackByte then .txRspAck
    else if b = Config.can then .txRspCan
    else if b = Config.nakByte then .txRspNak
    else .txRspOther (.byte b)

/-- R88, the EOT answer. -/
def decodeEot (r : Answer) : Instr :=
  match r with
  | .timeout => .txEotOther .timeout
  | .byte b => if b = Config.ackByte then .txEotAck else .txEotOther (.byte b)

/-- R86 to R88: the decode tables by read; "Bytes inside a packet body are not decoded: any value is data". -/
def decodeAnswer (p : AnswerPoint) (r : Answer) : Except Reject Instr :=
  match p with
  | .hdr => .ok (decodeHdr r)
  | .body =>
    match r with
    | .byte b => .ok (.rxBodyByte b)
    | .timeout => .error .bodyTimeout
  | .neg => .ok (decodeNeg r)
  | .rsp => .ok (decodeRsp r)
  | .eot => .ok (decodeEot r)

/-! ### Sent symbols (R90, R303) -/

/-- The symbols of R90 by the point they are sent at. -/
def decodeSent (p : SentPoint) (bytes : List Byte) : Except Reject Instr :=
  match p with
  | .neg =>
    if bytes = [Config.ascG] then .ok .emitNegG
    else if bytes = [Config.ascC] then .ok .emitNegC
    else if bytes = [Config.nakByte] then .ok .emitNegNak
    else .error .notASentSymbol
  | .ack => if bytes = [Config.ackByte] then .ok .emitAck else .error .notASentSymbol
  | .nak => if bytes = [Config.nakByte] then .ok .emitNak else .error .notASentSymbol
  | .can3 =>
    if bytes = [Config.can, Config.can, Config.can] then .ok .emitCan3 else .error .notASentSymbol
  | .eot => if bytes = [Config.eot] then .ok .emitEot else .error .notASentSymbol

/-! ### Frames (R82, R83) -/

/-- The fields of a frame of `bs` payload bytes after its header byte: sequence, complement, payload, trailer. -/
def decodeFields (bs : Nat) (rest : List Byte) : Byte × Byte × List Byte × List Byte :=
  (rest.getD 0 0#8, rest.getD 1 0#8, (rest.drop 2).take bs, rest.drop (2 + bs))

/-- R82, R83: the header byte and the length give the row; the trailer of two bytes is big-endian (R60). -/
def decodeFrame (bytes : List Byte) : Except Reject Instr :=
  match bytes with
  | [] => .error .notAFrameLength
  | h :: rest =>
    if h = Config.soh then
      match decodeFields Config.blkSmall rest with
      | (seq, cpl, p, [c]) => .ok (.frameSohArith seq cpl p c)
      | (seq, cpl, p, [hi, lo]) => .ok (.frameSohCrc seq cpl p (hi ++ lo))
      | _ => .error .notAFrameLength
    else if h = Config.stx then
      match decodeFields Config.blkLarge rest with
      | (seq, cpl, p, [c]) => .ok (.frameStxArith seq cpl p c)
      | (seq, cpl, p, [hi, lo]) => .ok (.frameStxCrc seq cpl p (hi ++ lo))
      | _ => .error .notAFrameLength
    else .error .notAFrameHeader

/-- The decoder. -/
def decode : Code → Except Reject Instr
  | .cmdWord w => .ok (decodeCmd w)
  | .answer p r => decodeAnswer p r
  | .sent p bytes => decodeSent p bytes
  | .frame bytes => decodeFrame bytes

/-! ### The encoder -/

/-- R92, the RECEIVE words: CTRL, USE1K, CKPREF, OP = 01. -/
def encodeReceive (ckpref : BitVec 2) (use1k ctrl : Bool) : Word :=
  0#26 ++ BitVec.ofBool ctrl ++ BitVec.ofBool use1k ++ ckpref ++ 1#2

/-- R82: the bytes of a frame in the order they are sent. -/
def frameOf (hdr seq cpl : Byte) (payload trailer : List Byte) : List Byte :=
  [hdr, seq, cpl] ++ payload ++ trailer

/-- R60: the CRC trailer, bits 15:8 and then bits 7:0. -/
def crcBytes (c : U16) : List Byte := [c.extractLsb' 8 8, c.extractLsb' 0 8]

/-- The words of an instruction, at the point its row belongs to. -/
def encode : Instr → Code
  | .cmdNop ign => .cmdWord (0#26 ++ ign ++ 0#2)
  | .cmdReceiveArith u c => .cmdWord (encodeReceive 0#2 u c)
  | .cmdReceiveCrc u c => .cmdWord (encodeReceive 1#2 u c)
  | .cmdReceiveGmode u c => .cmdWord (encodeReceive 2#2 u c)
  | .cmdTransmit k u c => .cmdWord (0#26 ++ BitVec.ofBool c ++ BitVec.ofBool u ++ k ++ 2#2)
  | .cmdIllegal w => .cmdWord w
  | .rxHdrSoh => .answer .hdr (.byte Config.soh)
  | .rxHdrStx => .answer .hdr (.byte Config.stx)
  | .rxHdrEot => .answer .hdr (.byte Config.eot)
  | .rxHdrCan => .answer .hdr (.byte Config.can)
  | .rxHdrOther r => .answer .hdr r
  | .rxBodyByte b => .answer .body (.byte b)
  | .txNegG => .answer .neg (.byte Config.ascG)
  | .txNegC => .answer .neg (.byte Config.ascC)
  | .txNegNak => .answer .neg (.byte Config.nakByte)
  | .txNegCan => .answer .neg (.byte Config.can)
  | .txNegOther r => .answer .neg r
  | .txRspAck => .answer .rsp (.byte Config.ackByte)
  | .txRspCan => .answer .rsp (.byte Config.can)
  | .txRspNak => .answer .rsp (.byte Config.nakByte)
  | .txRspOther r => .answer .rsp r
  | .txEotAck => .answer .eot (.byte Config.ackByte)
  | .txEotOther r => .answer .eot r
  | .emitNegG => .sent .neg [Config.ascG]
  | .emitNegC => .sent .neg [Config.ascC]
  | .emitNegNak => .sent .neg [Config.nakByte]
  | .emitAck => .sent .ack [Config.ackByte]
  | .emitNak => .sent .nak [Config.nakByte]
  | .emitCan3 => .sent .can3 [Config.can, Config.can, Config.can]
  | .emitEot => .sent .eot [Config.eot]
  | .frameSohArith s c p t => .frame (frameOf Config.soh s c p [t])
  | .frameSohCrc s c p t => .frame (frameOf Config.soh s c p (crcBytes t))
  | .frameStxArith s c p t => .frame (frameOf Config.stx s c p [t])
  | .frameStxCrc s c p t => .frame (frameOf Config.stx s c p (crcBytes t))

/-! ### The table's numbering -/

/-- Byte k of a number whose bit 0 is the least significant bit of the first byte. -/
def tableByte (w k : Nat) : Byte := BitVec.ofNat 8 (w >>> (8 * k))

/-- The first n bytes. -/
def tableBytes (w n : Nat) : List Byte := (List.range n).map (tableByte w)

/-- How long the frame with header byte h is, when the table gives n bytes of it: one of the lengths of R83 where n
is one, else the longest frame of that header (every byte above n is 0). -/
def tableFrameLength (h : Byte) (n : Nat) : Nat :=
  if h = Config.stx then (if n = 1028 then 1028 else 1029) else (if n = 132 then 132 else 133)

/-- The encoded form the table's word stands for. A row gives no point, so a byte that is a row at several points is
read at the first of them in the table's order (notes/assumptions/6.md). -/
def tableCode (nbits w : Nat) : Code :=
  if nbits = 32 then .cmdWord (BitVec.ofNat 32 w)
  else if nbits ≤ 8 then
    let b := tableByte w 0
    if b = Config.ascG ∨ b = Config.ascC ∨ b = Config.nakByte then .answer .neg (.byte b)
    else if b = Config.ackByte then .answer .rsp (.byte b)
    else .answer .hdr (.byte b)
  else if tableByte w 0 = Config.can then .sent .can3 (tableBytes w (nbits / 8))
  else .frame (tableBytes w (tableFrameLength (tableByte w 0) (nbits / 8)))

/-- The instruction the decoder reads from a word numbered as spec/opcode_table.json numbers it. -/
def decodeTableWord (nbits w : Nat) : Option Instr :=
  match decode (tableCode nbits w) with
  | .ok i => some i
  | .error _ => none

end Sys2Proof
end

