-- ==== Sys2Proof/Machine/State.lean ====
section
/-! DEFINITION. The architectural state of the XM block (spec/10_state.md R20 to R48) as plain data, the block's
surroundings as plain data beside it (the answers and host accesses still to come, and the event history of
spec/00_scope.md R13), the reasons a step can stop, and the state after reset. -/

namespace Sys2Proof.Machine

/-- R22 ROLE: 0 receiving, 1 transmitting. -/
inductive Role where
  | receiving
  | transmitting
  deriving DecidableEq, Repr

/-- R22, R26 MODE: 00 ARITH, 01 CRC, 10 GMODE, 11 NONE. -/
inductive Mode where
  | arith
  | crc
  | gmode
  | none
  deriving DecidableEq, Repr

/-- R22 BSIZE: 128 or 1024. -/
inductive BlockSize where
  | small
  | large
  deriving DecidableEq, Repr

/-- R22 TSIZE: 1 or 2. -/
inductive TrailerSize where
  | one
  | two
  deriving DecidableEq, Repr

/-- R96: the values of STATUS.OUTCOME; 9 to 15 are never produced. -/
inductive OutcomeCode where
  | none
  | done
  | userAborted
  | remoteCancelled
  | syncError
  | retryExceeded
  | transmitError
  | noFinalAck
  | badCommand
  deriving DecidableEq, Repr

/-- R9, R14: the timeout parameters, arguments of `Recv`. -/
inductive Timer where
  | tHdr
  | tByte
  | tCan
  | tTxNeg
  | tTxRsp
  deriving DecidableEq, Repr

/-- The reads of the two listings (R152, R202). -/
inductive ReadPoint where
  /-- `Recv(T_HDR)`, between check points a2 and a3 -/
  | rxHdr
  /-- the receiver's `Recv(T_CAN)`, between a4 and a5 -/
  | rxCan
  /-- the body's `Recv(T_BYTE)` number k, between a6 and a7 -/
  | rxBody (k : Nat)
  /-- `Recv(T_TXNEG)`, between b2 and b3 -/
  | txNeg
  /-- the negotiation `Recv(T_CAN)`, between b4 and b5 -/
  | txNegCan
  /-- the packet's `Recv(T_TXRSP)`, between b7 and b8 -/
  | txRsp
  /-- the response `Recv(T_CAN)`, between b9 and b10 -/
  | txRspCan
  /-- the EOT's `Recv(T_TXRSP)`, between b12 and b13 -/
  | txEot
  deriving DecidableEq, Repr

/-- R281: the check points at loop heads. -/
inductive LoopHead where
  /-- a1, head of RX_HEAD -/
  | rxHead
  /-- b1, head of TX_NHEAD -/
  | txNHead
  /-- b6, head of TX_SHEAD -/
  | txSHead
  /-- b11, head of TX_EHEAD -/
  | txEHead
  deriving DecidableEq, Repr

/-- R281: the check points, "at every retry-loop head and before/after each blocking read". -/
inductive CheckPoint where
  | head (h : LoopHead)
  /-- a2, a4, a6, b2, b4, b7, b9, b12 -/
  | before (p : ReadPoint)
  /-- a3, a5, a7, b3, b5, b8, b10, b13, with the answer just read -/
  | after (p : ReadPoint) (r : Answer)
  deriving DecidableEq, Repr

/-- What follows a `Send(ACK)` of the receiver listing. -/
inductive AckSite where
  /-- R160: after EOT, `Terminate(DONE)` -/
  | eot
  /-- R175: after CAN-CAN, `Terminate(REMOTE_CANCELLED)` -/
  | cancel
  /-- R169: after a Duplicate, RX_WAIT -/
  | duplicate
  /-- R170: after an Accepted packet -/
  | accepted
  deriving DecidableEq, Repr

/-- What follows a `Flush()`. -/
inductive FlushSite where
  /-- R175: `Send(ACK)` -/
  | rxCancel
  /-- R174: `SendCAN3()` -/
  | retryExceeded
  /-- R205, R211: `Terminate(REMOTE_CANCELLED)` -/
  | txCancel
  deriving DecidableEq, Repr

/-- R23 CS: the label of the sequencer point the block will perform next, "refined by the position inside that
labelled block (which primitive of the listing is next)". An answer just read and not yet decoded is carried by the
position, being a local variable of the listing. -/
inductive Cs where
  | idle
  /-- `CheckAbort()` -/
  | check (c : CheckPoint)
  /-- `r <- Recv(T)` -/
  | recv (p : ReadPoint)
  /-- `case r:` -/
  | answer (p : ReadPoint) (r : Answer)
  /-- `RX_WAIT: R.ATT <- 0` -/
  | rxWait
  /-- RX_HEAD, `if R.ATT == NEG_ATTEMPTS` -/
  | rxTest
  /-- RX_HEAD, `Send(NegByte(R.MODE))` -/
  | rxNeg
  /-- RX_HEAD, `R.ATT <- R.ATT + 1` -/
  | rxCount
  /-- RX_BODY, its first line -/
  | rxBody
  /-- RX_BODY, `v <- Classify(…); case v` -/
  | rxClassify
  /-- RX_BODY, `Store(MemRead(3, cnt))` -/
  | rxStore
  /-- the receiver's `Send(ACK)` -/
  | ack (site : AckSite)
  /-- the receiver's `Send(NAK)`; RX_WAIT follows -/
  | nak
  /-- `SendCAN3()`, k of its bytes sent; `Terminate(o)` follows -/
  | can3 (k : Nat) (o : OutcomeCode)
  /-- `Flush()` -/
  | flush (site : FlushSite)
  /-- `raise Terminate(o)` -/
  | finish (o : OutcomeCode)
  /-- TX_NHEAD, `if R.ATT == TX_NEG_ATTEMPTS` -/
  | txNegTest
  /-- TX_BLOCK, up to its `Fetch` -/
  | txBlock
  /-- TX_BLOCK, `l <- Fetch(cap)` and the frame's assembly -/
  | txFetch
  /-- TX_SHEAD, `if R.TRIES == TX_RETRY_CAP` -/
  | txCapTest
  /-- TX_SHEAD, `Send(FRAME[i])` -/
  | txSend (i : Nat)
  /-- TX_ACKED -/
  | txAcked
  /-- `TX_EOT: R.EOTN <- 0` -/
  | txEot
  /-- TX_EHEAD, `if R.EOTN == EOT_TRIES` -/
  | txEotTest
  /-- TX_EHEAD, `Send(EOT)` -/
  | txSendEot
  deriving DecidableEq, Repr

/-- R67: the four host registers. -/
inductive HostReg where
  | cmd
  | length
  | status
  | count
  deriving DecidableEq, Repr

/-- An access on the host bus port (R54, R64): its width in bits, its byte offset from XM_BASE, a write's value. -/
inductive HostAccess where
  | read (width offset : Nat)
  | write (width offset : Nat) (value : Word)
  deriving DecidableEq, Repr

/-- Who moves next between two events of the block (R65, R270, R331, R337; notes/assumptions/2.md). `wait` and `hang` are
answers of a port that has a transaction of the block outstanding; where none is, the sequencer moves
(`State.turn`, Run.lean). -/
inductive Turn where
  /-- the sequencer performs its next primitive -/
  | seq
  /-- the host accesses a register -/
  | host (a : HostAccess)
  /-- the reset input is asserted -/
  | reset
  /-- the port has not completed the block's transaction yet -/
  | wait
  /-- the port will never complete the block's transaction (R337, 93_implementation_defined I15) -/
  | hang
  deriving DecidableEq, Repr

/-- R6, R13: the events. -/
inductive Event where
  | tx (b : Byte)
  | rx (t : Timer) (r : Answer)
  | rxFlush
  | store (l : List Byte)
  | fetch (capacity : Nat) (l : List Byte)
  | abortSample (v : Bool)
  | finish (o : OutcomeCode) (count : Word)
  | hostRd (r : HostReg) (v : Word)
  | hostWr (r : HostReg) (v : Word)
  deriving DecidableEq, Repr

/-- The frame buffer FRAME (R44) as the list of its written bytes, indices strictly rising. A byte nothing has
written is not listed and reads as no value (R48: "unspecified"). -/
abbrev Memory := List Host.Cell

/-- The state. Fields are named after the registers of R22, R41 and R42; the last seven are the model's own and hold
the block's surroundings (notes/assumptions/1.md). DESIGN CHOICE: the counters GUARD, ATT, TRIES, EOTN and NFETCH are
unbounded numbers, for R10 fixes only that they hold "at least the range 0 to their cap" (notes/assumptions/16.md). -/
structure State where
  /-- STATUS.BUSY (R42) -/
  busy : Bool
  /-- STATUS.OUTCOME (R42, R96) -/
  outcome : OutcomeCode
  /-- LENGTH (R41) -/
  length : Word
  /-- ROLE (R22) -/
  role : Role
  /-- MODE (R22, R26) -/
  mode : Mode
  /-- CTRL (R22) -/
  ctrl : Bool
  /-- USE1K (R22) -/
  use1k : Bool
  /-- SEQ (R27) -/
  seq : Byte
  /-- BSIZE (R33) -/
  bsize : BlockSize
  /-- TSIZE (R33) -/
  tsize : TrailerSize
  /-- BYTES, read by the host as COUNT (R28, R43) -/
  bytes : Word
  /-- LIMIT (R29) -/
  limit : Word
  /-- GUARD (R30) -/
  guard : Nat
  /-- ATT (R31) -/
  att : Nat
  /-- NEG (R22, R25) -/
  neg : Bool
  /-- TRIES (R32) -/
  tries : Nat
  /-- EOTN (R32) -/
  eotn : Nat
  /-- EOD (R22, R25) -/
  eod : Bool
  /-- NFETCH (R22) -/
  nfetch : Nat
  /-- HDR (R22) -/
  hdr : Byte
  /-- CS (R23), the block's program counter -/
  cs : Cs
  /-- FRAME (R44) -/
  frame : Memory
  /-- who moves at the next steps; past the end, the sequencer -/
  sched : List Turn
  /-- the port will never complete the outstanding transaction (R337, I15); only reset clears it -/
  hung : Bool
  /-- the transport's next answers; past the end, free draws -/
  rx : List Answer
  /-- the source's next answers; past the end, free draws -/
  src : List (List Byte)
  /-- the next samples of the abort input; past the end, free draws -/
  abort : List Bool
  /-- how many free draws were made -/
  draws : Nat
  /-- the event history, newest first -/
  hist : List Event
  deriving DecidableEq, Repr

/-- Why a run stops by a fault. Each is SAFE: the machine stops where the spec gives no value, and Safety.lean's
invariant, which every step keeps, excludes all of them. -/
inductive Fault where
  /-- raised by `MemRead` (Ops.lean): a FRAME byte is read that nothing has written. Safe: R75 says that no rule
  reads one. -/
  | frameUnwritten (index : Nat)
  /-- raised by `MemWrite` (Ops.lean): an index at or beyond 1029. Safe: R63 says that no rule forms one. -/
  | frameIndex (index : Nat)
  /-- raised by the negotiation byte (Operands.lean) when MODE is NONE. Safe: R152 defines `NegByte` for GMODE, CRC
  and ARITH only, and a receiver session starts in one of them (R26). -/
  | negByteOfNone
  /-- raised where FRAME is read as a frame and its bytes are not one (Run.lean). Safe: the listings write a whole
  frame before they read it. -/
  | undecodable (why : Reject)
  deriving DecidableEq, Repr

/-- Why a step has no meaning. Each is SAFE: the machine stops. -/
inductive Refusal where
  /-- raised by exec's arm of an instruction that has no meaning yet. Safe. -/
  | notModelled (mnemonic : String)
  /-- raised by a host access of another width or offset (Run.lean). Safe: R64, "a model refuses it". -/
  | undefinedHostAccess
  /-- raised by `Fetch` when the listed answer is longer than the capacity (Ops.lean). Safe: 93_implementation_defined
  I9, "refuse". -/
  | sourceOverrun
  /-- raised by a meaning executed where CS is not at a point of its row (Ops.lean). Safe: a row's format names its
  point, the spec gives it no effect elsewhere, and `step` never executes one elsewhere. -/
  | notAtItsPoint
  deriving DecidableEq, Repr

/-- What a meaning answers. -/
abbrev Res := Host.Outcome State Fault Refusal

/-- R48, R330: the reset values, FRAME with nothing listed, and no access, answer or event yet. -/
def State.reset : State where
  busy := false
  outcome := .none
  length := 0#32
  role := .receiving
  mode := .none
  ctrl := false
  use1k := false
  seq := 0#8
  bsize := .small
  tsize := .one
  bytes := 0#32
  limit := 0#32
  guard := 0
  att := 0
  neg := false
  tries := 0
  eotn := 0
  eod := false
  nfetch := 0
  hdr := 0#8
  cs := .idle
  frame := []
  sched := []
  hung := false
  rx := []
  src := []
  abort := []
  draws := 0
  hist := []

end Sys2Proof.Machine
end

