-- ==== Sys2Proof/Machine/Operands.lean ====
section
/-! DEFINITION. The operand forms: sizes, trailer and frame layout, timers, the negotiation byte, the start sequence,
fill bytes, counts, and the fields of a host access. -/

namespace Sys2Proof.Machine

/-- R8, R22: the payload bytes of a block size. -/
def BlockSize.bytes : BlockSize → Nat
  | .small => Config.blkSmall
  | .large => Config.blkLarge

/-- R22: the trailer bytes. -/
def TrailerSize.bytes : TrailerSize → Nat
  | .one => 1
  | .two => 2

/-- R33: "TSIZE is 1 when MODE is ARITH and 2 when MODE is CRC or GMODE"; the listings' `(MODE == ARITH) ? 1 : 2`. -/
def Mode.trailerSize (m : Mode) : TrailerSize := if m = .arith then .one else .two

/-- R82: the header byte of a packet of that size. -/
def BlockSize.header : BlockSize → Byte
  | .small => Config.soh
  | .large => Config.stx

/-- R83: `3 + BSIZE + TSIZE`. -/
def frameLength (b : BlockSize) (t : TrailerSize) : Nat := 3 + b.bytes + t.bytes

/-- R165: how many bytes are read after the header byte, `BSIZE + TSIZE + 2`, the bound of the listing's loop (R152).
DEDUCED: R83 and R165 put the counts 130, 131, 1026 and 1027 beside this formula, which gives 131, 132, 1027 and 1028;
the model follows the formula (notes/assumptions/15.md). -/
def bodyLength (b : BlockSize) (t : TrailerSize) : Nat := b.bytes + t.bytes + 2

/-- R9, R157, R165: the timeout argument of each read. -/
def ReadPoint.timer : ReadPoint → Timer
  | .rxHdr => .tHdr
  | .rxCan => .tCan
  | .rxBody _ => .tByte
  | .txNeg => .tTxNeg
  | .txNegCan => .tCan
  | .txRsp => .tTxRsp
  | .txRspCan => .tCan
  | .txEot => .tTxRsp

/-- R8, R9: the timeout's value in milliseconds; the transport measures it, no rule depends on it (R14). -/
def Timer.ms : Timer → Nat
  | .tHdr => Config.tHdrMs
  | .tByte => Config.tByteMs
  | .tCan => Config.tCanMs
  | .tTxNeg => Config.tTxNegMs
  | .tTxRsp => Config.tTxRspMs

/-- The table family that decodes a read's answer; the second byte after a CAN has no row (R161, R205, R211). -/
def ReadPoint.answerPoint : ReadPoint → Option AnswerPoint
  | .rxHdr => some .hdr
  | .rxCan => none
  | .rxBody _ => some .body
  | .txNeg => some .neg
  | .txNegCan => none
  | .txRsp => some .rsp
  | .txRspCan => none
  | .txEot => some .eot

/-- R156: `NegByte(GMODE) = ASC_G`, `NegByte(CRC) = ASC_C`, `NegByte(ARITH) = NAK`; the spec gives none for NONE. -/
def negByte : Mode → Option Byte
  | .gmode => some Config.ascG
  | .crc => some Config.ascC
  | .arith => some Config.nakByte
  | .none => none

/-- R251: `InitSeq(ctrl) = (ctrl == 1) ? 0 : 1`. -/
def initSeq (ctrl : Bool) : Byte := if ctrl then 0#8 else 1#8

/-- R85, R208, R255: `fill <- (R.CTRL == 1) ? FILL_CTRL : FILL_DATA`. -/
def fillByte (ctrl : Bool) : Byte := if ctrl then Config.fillCtrl else Config.fillData

/-- R84, R131: the complement of a sequence number, `255 - seq`. -/
def complement (seq : Byte) : Byte := 255#8 - seq

/-- `LIMIT - BYTES`, the bytes still due (R171, R207). -/
def State.remaining (s : State) : Nat := (s.limit - s.bytes).toNat

/-- R171: `cnt <- min(BSIZE, LIMIT - BYTES)`. -/
def State.storeCount (s : State) : Nat := min s.bsize.bytes s.remaining

/-- R207: `cap <- min(BSIZE, rem)`. -/
def State.fetchCapacity (s : State) : Nat := min s.bsize.bytes s.remaining

/-- R207: `(USE1K == 1 and rem > 128) ? 1024 : 128`. -/
def blockSizeFor (use1k : Bool) (rem : Nat) : BlockSize :=
  if use1k && decide (128 < rem) then .large else .small

/-- R64, R67: the register at a 32-bit access's offset; every other access is not one this hardware defines. -/
def hostReg (width offset : Nat) : Option HostReg :=
  if width = 32 then
    if offset = 0x0 then some .cmd
    else if offset = 0x4 then some .length
    else if offset = 0x8 then some .status
    else if offset = 0xC then some .count
    else none
  else none

/-- R67, R91: the offset of a register from XM_BASE. -/
def HostReg.offset : HostReg → Nat
  | .cmd => 0x0
  | .length => 0x4
  | .status => 0x8
  | .count => 0xC

/-- R270: the address of a register in the platform's address space. -/
def HostReg.address (r : HostReg) : Nat := Config.xmBase + r.offset

/-- A 32-bit write to a register. -/
def HostReg.wr (r : HostReg) (v : Word) : Turn := .host (.write 32 r.offset v)

/-- A 32-bit read of a register. -/
def HostReg.rd (r : HostReg) : Turn := .host (.read 32 r.offset)

/-- R98 `RECV limit, pref, ctrl`: `WR LENGTH, limit ; WR CMD, (ctrl << 5) or (pref << 2) or 0x1`. -/
def recvMacro (limit : Word) (pref : BitVec 2) (ctrl : Bool) : List Turn :=
  [HostReg.length.wr limit, HostReg.cmd.wr (encodeReceive pref false ctrl)]

/-- R98 `XMIT total, use1k, ctrl`: `WR LENGTH, total ; WR CMD, (ctrl << 5) or (use1k << 4) or 0x2`. -/
def xmitMacro (total : Word) (use1k ctrl : Bool) : List Turn :=
  [HostReg.length.wr total, HostReg.cmd.wr (0#26 ++ BitVec.ofBool ctrl ++ BitVec.ofBool use1k ++ 0#2 ++ 2#2)]

end Sys2Proof.Machine
end

