-- ==== Sys2Proof/Machine/Flags.lean ====
section
/-! DEFINITION. The one-bit flags and coded fields as the host sees them: the STATUS word and the driver's result. The
block has no condition codes, and no checksum or validator operation writes a flag (spec/10_state.md R25). -/

namespace Sys2Proof.Machine

/-- R42 bit 1. -/
def Role.bit : Role → Bool
  | .receiving => false
  | .transmitting => true

/-- R26, R93. -/
def Mode.code : Mode → BitVec 2
  | .arith => 0#2
  | .crc => 1#2
  | .gmode => 2#2
  | .none => 3#2

/-- R96. -/
def OutcomeCode.code : OutcomeCode → BitVec 4
  | .none => 0#4
  | .done => 1#4
  | .userAborted => 2#4
  | .remoteCancelled => 3#4
  | .syncError => 4#4
  | .retryExceeded => 5#4
  | .transmitError => 6#4
  | .noFinalAck => 7#4
  | .badCommand => 8#4

/-- R42, R95: bits 31:16 zero, SEQ, OUTCOME, MODE, ROLE, BUSY. -/
def State.statusWord (s : State) : Word :=
  0#16 ++ s.seq ++ s.outcome.code ++ s.mode.code ++ BitVec.ofBool s.role.bit ++ BitVec.ofBool s.busy

/-- R271: what a register reads as. -/
def State.hostValue (s : State) : HostReg → Word
  | .cmd => 0#32
  | .length => s.length
  | .status => s.statusWord
  | .count => s.bytes

/-- R286: what a host driver returns, COUNT when OUTCOME is DONE and -OUTCOME otherwise. -/
def State.driverResult (s : State) : Int :=
  if s.outcome = .done then (s.bytes.toNat : Int) else -(s.outcome.code.toNat : Int)

/-- R150, R200: the document's names for where a session is. -/
inductive Phase where
  | idle
  | rxNegotiating
  | rxReceiving
  | txNegotiating
  | txTransmitting
  deriving DecidableEq, Repr

/-- R150: "Negotiating" is NEG = 1 and "Receiving" is NEG = 0; R200: the transmitter negotiates while MODE is NONE.
DESIGN CHOICE: at the first line of `RX_BODY` with NEG still 1, which fits neither of R150's names, the receiver is called
negotiating until that line clears NEG (notes/assumptions/17.md). -/
def State.phase (s : State) : Phase :=
  if s.busy then
    match s.role with
    | .receiving => if s.neg then .rxNegotiating else .rxReceiving
    | .transmitting => if s.mode = .none then .txNegotiating else .txTransmitting
  else .idle

end Sys2Proof.Machine
end

