-- ==== Sys2Proof/Machine/Checksum.lean ====
section
/-! DEFINITION. The checksum engine (spec/40_checksum.md): pure functions of their arguments. -/

namespace Sys2Proof.Machine

/-- R111 `Sum8`: the sum of all bytes, truncated to 8 bits. -/
def sum8 (p : List Byte) : Byte := p.foldl (· + ·) 0#8

/-- R112, line 1: `swap_bytes`, `crc[7:0] ++ crc[15:8]`. -/
def swapBytes (c : U16) : U16 := c.extractLsb' 0 8 ++ c.extractLsb' 8 8

/-- R112 `CrcStep`, its five lines in their order. -/
def crcStep (crc : U16) (b : Byte) : U16 :=
  let c := swapBytes crc
  let c := c ^^^ b.setWidth 16
  let c := c ^^^ (c.extractLsb' 0 8 >>> 4).setWidth 16
  let c := c ^^^ ((c <<< 8) <<< 4)
  c ^^^ (((c.extractLsb' 0 8).setWidth 16 <<< 4) <<< 1)

/-- R113 `Crc16`: `CrcStep` folded over the bytes in order, from 0. -/
def crc16 (p : List Byte) : U16 := p.foldl crcStep 0#16

/-- R115 `Trailer`: one byte in ARITH, the CRC big-endian otherwise. -/
def trailer (m : Mode) (p : List Byte) : List Byte :=
  if m = .arith then [sum8 p] else crcBytes (crc16 p)

/-- R116 `Verify`: `t[0] == Sum8(p)` in ARITH, `t[0] * 256 + t[1] == Crc16(p)` otherwise. A trailer too short for its
mode, which no rule forms, does not verify. -/
def verify (m : Mode) (p t : List Byte) : Bool :=
  if m = .arith then
    match t with
    | c :: _ => c == sum8 p
    | [] => false
  else
    match t with
    | hi :: lo :: _ => hi.toNat * 256 + lo.toNat == (crc16 p).toNat
    | [_] => false
    | [] => false

end Sys2Proof.Machine
end

