-- ==== Sys2Proof/Machine/Validator.lean ====
section
/-! DEFINITION. The packet validator (spec/41_validator.md): a pure function of the frame's bytes, MODE, the block
size and the expected sequence. -/

namespace Sys2Proof.Machine

/-- R130: the validator's result. -/
inductive Verdict where
  | accepted (s : Byte)
  | duplicate
  | malformed
  deriving DecidableEq, Repr

/-- R131: `f[2] == 255 - f[1]`. -/
def complementOK (f : List Byte) : Bool := f.getD 2 0#8 == complement (f.getD 1 0#8)

/-- R132: `Verify(mode, f[3 .. 3+bs], f[3+bs .. 3+bs+TS(mode)])`. -/
def trailerOK (m : Mode) (bs : Nat) (f : List Byte) : Bool :=
  verify m ((f.drop 3).take bs) ((f.drop (3 + bs)).take m.trailerSize.bytes)

/-- R134 `Classify`. -/
def classify (m : Mode) (bs : Nat) (f : List Byte) (exp : Byte) : Verdict :=
  if complementOK f = false then .malformed
  else if trailerOK m bs f = false then .malformed
  else if f.getD 1 0#8 = exp then .accepted (f.getD 1 0#8)
  else if f.getD 1 0#8 = exp + 255#8 then .duplicate
  else .malformed

end Sys2Proof.Machine
end

