-- ==== Sys2Proof/Machine/Ops.lean ====
section
/-! DEFINITION. The named operations: the frame buffer's reads and writes, the event primitives of spec/00_scope.md
R13, the session start and the termination (the one way a session ends, spec/60_exceptions.md R302). -/

namespace Sys2Proof.Machine

/-! ### The frame buffer (R12, R44, R63) -/

/-- `FRAME[i]`, where it was written. -/
def Memory.read (m : Memory) (i : Nat) : Option Byte := (m.find? (fun c => c.1 == i)).map (·.2)

/-- `MemRead(i, n)`: the bytes `FRAME[i .. i+n]`, where all were written. -/
def Memory.readList (m : Memory) (i : Nat) : Nat → Option (List Byte)
  | 0 => some []
  | n + 1 =>
    match m.read i, Memory.readList m (i + 1) n with
    | some b, some l => some (b :: l)
    | _, _ => none

/-- The first index of `FRAME[i .. i+n]` that was not written. -/
def Memory.firstUnwritten (m : Memory) (i : Nat) : Nat → Nat
  | 0 => i
  | n + 1 => if (m.read i).isSome then Memory.firstUnwritten m (i + 1) n else i

/-- The cells of a list of bytes laid from index i. -/
def cellsFrom (i : Nat) : List Byte → Memory
  | [] => []
  | b :: l => (i, b) :: cellsFrom (i + 1) l

/-- `MemWrite(i, n, l)`: what stood at those indices is replaced, every other byte stays. -/
def Memory.writeList (m : Memory) (i : Nat) (l : List Byte) : Memory :=
  m.filter (fun c => decide (c.1 < i)) ++ cellsFrom i l ++ m.filter (fun c => decide (i + l.length ≤ c.1))

/-- The canonical form: indices strictly rising, all of them indices of FRAME (R44). No entry equals what an unlisted
index reads as, since an unlisted index reads as no value. -/
abbrev Memory.wf (m : Memory) : Prop :=
  m.Pairwise (fun a b => a.1 < b.1) ∧ ∀ c ∈ m, c.1 < Config.frameBytes

/-- `MemRead` on the machine: reading an unwritten byte stops (R75 says that it never happens). -/
def memRead (i n : Nat) (s : State) : Except Fault (List Byte) :=
  match s.frame.readList i n with
  | some l => .ok l
  | none => .error (.frameUnwritten (s.frame.firstUnwritten i n))

/-- `MemWrite` on the machine: an index at or beyond 1029 stops (R63 says that it is never formed). -/
def memWrite (i : Nat) (l : List Byte) (s : State) : Except Fault State :=
  if i + l.length ≤ Config.frameBytes then .ok { s with frame := s.frame.writeList i l }
  else .error (.frameIndex (i + l.length - 1))

/-! ### The event primitives (R13) -/

/-- `goto`. -/
def State.goto (s : State) (c : Cs) : State := { s with cs := c }

/-- One event happens. -/
def State.record (s : State) (e : Event) : State := { s with hist := e :: s.hist }

/-- `Send(b)`; then the listing goes on at c. -/
def send (b : Byte) (c : Cs) (s : State) : State := (s.record (.tx b)).goto c

/-- `Flush()` (R56): a request to the transport; which bytes it discards is the transport's business (I11). -/
def flushInput (c : Cs) (s : State) : State := (s.record .rxFlush).goto c

/-- The transport's next answer: the next listed one, else a free draw (R14). -/
def drawAnswer (s : State) : Answer × State :=
  match s.rx with
  | r :: rest => (r, { s with rx := rest })
  | [] => (Config.freeAnswer s.draws, { s with draws := s.draws + 1 })

/-- The abort input's next sample (R53, R280): the next listed one, else a free draw. -/
def drawAbort (s : State) : Bool × State :=
  match s.abort with
  | v :: rest => (v, { s with abort := rest })
  | [] => (Config.freeAbort s.draws, { s with draws := s.draws + 1 })

/-- The source's next answer to `Fetch(cap)` (R52): the next listed one, else a free draw of at most cap bytes. -/
def drawFetch (cap : Nat) (s : State) : List Byte × State :=
  match s.src with
  | l :: rest => (l, { s with src := rest })
  | [] => ((Config.freeFetch s.draws).take cap, { s with draws := s.draws + 1 })

/-- R281: where the listing goes on after a check point whose sample is 0. -/
def CheckPoint.onward : CheckPoint → Cs
  | .head .rxHead => .rxTest
  | .head .txNHead => .txNegTest
  | .head .txSHead => .txCapTest
  | .head .txEHead => .txEotTest
  | .before p => .recv p
  | .after p r => .answer p r

/-- `CheckAbort()` (R13, R280): one abort sample; 1 raises `Terminate(USER_ABORTED)`. -/
def checkAbort (c : CheckPoint) (s : State) : State :=
  match drawAbort s with
  | (v, s') => (s'.record (.abortSample v)).goto (if v then .finish .userAborted else c.onward)

/-- `r <- Recv(T)`; the check point after the read follows. -/
def receive (p : ReadPoint) (s : State) : State :=
  match drawAnswer s with
  | (r, s') => (s'.record (.rx p.timer r)).goto (.check (.after p r))

/-! ### Starting and ending a session -/

/-- R278 `SessionStart()`. -/
def sessionStart (s : State) : State := { s with busy := true, outcome := .none, limit := s.length }

/-- R151 RX_START. -/
def rxStart (pref : Mode) (ctrl : Bool) (s : State) : State :=
  { s with
    role := .receiving, mode := pref, ctrl := ctrl, neg := true, seq := initSeq ctrl
    bytes := 0#32, guard := 0, cs := .rxWait }

/-- R201 TX_START. -/
def txStart (use1k ctrl : Bool) (s : State) : State :=
  { s with
    role := .transmitting, mode := .none, ctrl := ctrl, use1k := use1k, seq := initSeq ctrl
    bytes := 0#32, eod := false, att := 0, cs := .check (.head .txNHead) }

/-- R302 `raise Terminate(o)`, the one exceptional entry of this block: OUTCOME, BUSY, CS and the event
`Finish(o, COUNT)`, nothing else. There is no return from it (R307); a new session starts by a command. -/
def terminate (o : OutcomeCode) (s : State) : State :=
  ({ s with outcome := o, busy := false, cs := .idle }).record (.finish o s.bytes)

/-- R330, R331: the reset input. Every register takes its reset value, no event is performed, a transaction that hangs is
abandoned; the other surroundings stay. -/
def hwReset (s : State) : State :=
  { State.reset with
    sched := s.sched, rx := s.rx, src := s.src, abort := s.abort, draws := s.draws, hist := s.hist }

/-- The move at the head of the schedule is taken. -/
def popTurn (s : State) : State := { s with sched := s.sched.tail }

/-! ### Where a row's meaning may stand -/

/-- A row's effect where CS is at a point of the row; elsewhere the spec gives it none. -/
def atPoint (here : Bool) (s' : State) : Res := if here then .next s' else .refused .notAtItsPoint

/-- CS is where the answer of that read is decoded. -/
def State.answering (s : State) (p : ReadPoint) : Bool :=
  match s.cs with
  | .answer q _ => q == p
  | _ => false

/-- An operation that may fault, as a result. -/
def ofExcept (r : Except Fault State) : Res :=
  match r with
  | .ok s => .next s
  | .error f => .fault f

end Sys2Proof.Machine
end

