-- ==== Sys2Proof/Machine/Cmd.lean ====
section
/-! DEFINITION. The CMD rows: what a host write of that word to CMD does (spec/45_host_interface.md R273 to R278). -/

namespace Sys2Proof.Machine

/-- R273: every CMD write while a session runs is ignored, before its legality is looked at (R306 e). -/
def whenIdle (s s' : State) : State := if s.busy then s else s'

/-- R276: `SessionStart(); goto RX_START`. -/
def startReceive (pref : Mode) (ctrl : Bool) (s : State) : State := rxStart pref ctrl (sessionStart s)

/-- R277: `SessionStart(); goto TX_START`. -/
def startTransmit (use1k ctrl : Bool) (s : State) : State := txStart use1k ctrl (sessionStart s)

/-- CMD.NOP (R275): nothing is written, OUTCOME keeps its value. -/
def execCmdNop (_ignored : BitVec 4) (s : State) : Res := .next s

/-- CMD.RECEIVE.ARITH (R276); USE1K is ignored. -/
def execCmdReceiveArith (_use1k ctrl : Bool) (s : State) : Res :=
  .next (whenIdle s (startReceive .arith ctrl s))

/-- CMD.RECEIVE.CRC (R276); USE1K is ignored. -/
def execCmdReceiveCrc (_use1k ctrl : Bool) (s : State) : Res :=
  .next (whenIdle s (startReceive .crc ctrl s))

/-- CMD.RECEIVE.GMODE (R276); USE1K is ignored. -/
def execCmdReceiveGmode (_use1k ctrl : Bool) (s : State) : Res :=
  .next (whenIdle s (startReceive .gmode ctrl s))

/-- CMD.TRANSMIT (R277); CKPREF is ignored. -/
def execCmdTransmit (_ckpref : BitVec 2) (use1k ctrl : Bool) (s : State) : Res :=
  .next (whenIdle s (startTransmit use1k ctrl s))

/-- CMD.ILLEGAL (R274): `R.OUTCOME <- BAD_COMMAND`, no session starts. -/
def execCmdIllegal (_w : Word) (s : State) : Res :=
  .next (whenIdle s { s with outcome := .badCommand })

end Sys2Proof.Machine
end

