-- ==== Sys2Proof/Machine/Receiver.lean ====
section
/-! DEFINITION. The receiver sequencer (spec/42_receiver.md R152): the RX rows, and the parts of the listing that no
row of the opcode table stands for. -/

namespace Sys2Proof.Machine

/-! ### Header answers (R157 to R162) -/

/-- R158, R159: `R.HDR <- hdr; R.BSIZE <- bs; goto RX_BODY`. -/
def packetHeader (bs : BlockSize) (s : State) : State := { s with hdr := bs.header, bsize := bs, cs := .rxBody }

/-- RX.HDR.SOH (R158). -/
def execRxHdrSoh (s : State) : Res := atPoint (s.answering .rxHdr) (packetHeader .small s)

/-- RX.HDR.STX (R159). -/
def execRxHdrStx (s : State) : Res := atPoint (s.answering .rxHdr) (packetHeader .large s)

/-- RX.HDR.EOT (R160): `Send(ACK); raise Terminate(DONE)` follow. -/
def execRxHdrEot (s : State) : Res := atPoint (s.answering .rxHdr) (s.goto (.ack .eot))

/-- RX.HDR.CAN (R161): check point a4 and the second read follow. -/
def execRxHdrCan (s : State) : Res := atPoint (s.answering .rxHdr) (s.goto (.check (.before .rxCan)))

/-- RX.HDR.OTHER (R157, R162): the attempt ends. -/
def execRxHdrOther (_r : Answer) (s : State) : Res :=
  atPoint (s.answering .rxHdr) (s.goto (.check (.head .rxHead)))

/-! ### The packet body (R164 to R167) -/

/-- R164: `R.NEG <- 0; R.TSIZE <- (R.MODE == ARITH) ? 1 : 2; FRAME[0] <- R.HDR`; byte 0 of the body is read next. -/
def enterBody (s : State) : Res :=
  ofExcept (memWrite 0 [s.hdr]
    { s with neg := false, tsize := s.mode.trailerSize, cs := .check (.before (.rxBody 0)) })

/-- R165: the read after byte k of the body, `BSIZE + TSIZE + 2` of them in all, or the classification. -/
def afterBodyByte (k : Nat) (s : State) : Cs :=
  if k + 1 < bodyLength s.bsize s.tsize then .check (.before (.rxBody (k + 1))) else .rxClassify

/-- RX.BODY.BYTE (R165): `FRAME[1 + k] <- b`. -/
def execRxBodyByte (data : Byte) (s : State) : Res :=
  match s.cs with
  | .answer (.rxBody k) _ => ofExcept (memWrite (1 + k) [data] (s.goto (afterBodyByte k s)))
  | _ => .refused .notAtItsPoint

/-! ### Answers to a classified packet (R168 to R174) -/

/-- R168, R169, R173: `R.GUARD <- R.GUARD + 1`; at RX_RETRY_CAP the session ends RETRY_EXCEEDED instead of going on
at c. -/
def countBadPacket (c : Cs) (s : State) : State :=
  { s with guard := s.guard + 1, cs := if s.guard + 1 = Config.rxRetryCap then .flush .retryExceeded else c }

/-- R167 to R170, R172: what a classified packet leads to. -/
def answerPacket (v : Verdict) (s : State) : State :=
  match v with
  | .malformed => countBadPacket .nak s
  | .duplicate => countBadPacket (if s.mode = .gmode then .rxWait else .ack .duplicate) s
  | .accepted _ => s.goto .rxStore

/-- R170, R252: after an Accepted packet, `if R.CTRL == 1: raise Terminate(DONE); goto RX_WAIT`. -/
def afterAccepted (s : State) : Cs := if s.ctrl then .finish .done else .rxWait

/-- R170, R171: `Store(MemRead(3, cnt))`, then BYTES, SEQ and GUARD; ACK follows unless MODE is GMODE. -/
def storePacket (s : State) : Res :=
  match memRead 3 s.storeCount s with
  | .error f => .fault f
  | .ok l =>
    .next
      { s with
        bytes := s.bytes + BitVec.ofNat 32 s.storeCount
        seq := s.seq + 1#8
        guard := 0
        cs := if s.mode = .gmode then afterAccepted s else .ack .accepted
        hist := .store l :: s.hist }

/-! ### The header wait's loop (R153 to R156, R161, R175) -/

/-- R153 to R156: the exhaustion test of RX_HEAD, the downgrade GMODE → CRC → ARITH, else the attempt. -/
def headerTest (s : State) : State :=
  if s.att = Config.negAttempts then
    if s.neg = true ∧ s.mode = .gmode then { s with mode := .crc, att := 0, cs := .check (.head .rxHead) }
    else if s.neg = true ∧ s.mode = .crc then { s with mode := .arith, att := 0, cs := .check (.head .rxHead) }
    else s.goto (.can3 0 .syncError)
  else s.goto (if s.neg then .rxNeg else .rxCount)

/-- R153: `RX_WAIT: R.ATT <- 0`. -/
def enterWait (s : State) : State := { s with att := 0, cs := .check (.head .rxHead) }

/-- R153: `R.ATT <- R.ATT + 1`, then check point a2. -/
def countAttempt (s : State) : State := { s with att := s.att + 1, cs := .check (.before .rxHdr) }

/-- R161, R175: after a CAN, a second CAN is a remote cancel and any other answer is dropped. -/
def secondCanRx (r2 : Answer) (s : State) : State :=
  s.goto (if r2 = .byte Config.can then .flush .rxCancel else .check (.head .rxHead))

end Sys2Proof.Machine
end

