-- ==== Sys2Proof/Machine/Emit.lean ====
section
/-! DEFINITION. The EMIT rows: the symbols the block sends by itself (spec/30_encoding.md R90). Each `Send` is one
event (spec/00_scope.md R13). -/

namespace Sys2Proof.Machine

/-- R156: the receiver's negotiation byte in mode m; `R.ATT <- R.ATT + 1` follows. -/
def emitNeg (m : Mode) (b : Byte) (s : State) : Res :=
  atPoint (s.cs == .rxNeg && s.mode == m) (send b .rxCount s)

/-- EMIT.NEG.G (R156). -/
def execEmitNegG (s : State) : Res := emitNeg .gmode Config.ascG s

/-- EMIT.NEG.C (R156). -/
def execEmitNegC (s : State) : Res := emitNeg .crc Config.ascC s

/-- EMIT.NEG.NAK (R156). -/
def execEmitNegNak (s : State) : Res := emitNeg .arith Config.nakByte s

/-- R160, R169, R170, R175: what follows each `Send(ACK)` of the receiver. -/
def afterAck (site : AckSite) (s : State) : Cs :=
  match site with
  | .eot => .finish .done
  | .cancel => .finish .remoteCancelled
  | .duplicate => .rxWait
  | .accepted => afterAccepted s

/-- EMIT.ACK. -/
def execEmitAck (s : State) : Res :=
  match s.cs with
  | .ack site => .next (send Config.ackByte (afterAck site s) s)
  | _ => .refused .notAtItsPoint

/-- EMIT.NAK (R166, R168): RX_WAIT follows. -/
def execEmitNak (s : State) : Res := atPoint (s.cs == .nak) (send Config.nakByte .rxWait s)

/-- EMIT.CAN3 (R303): the next of its three `Send(CAN)` events, "back to back with no read and no abort sample between
them"; `raise Terminate(o)` follows the third. -/
def execEmitCan3 (s : State) : Res :=
  match s.cs with
  | .can3 k o => .next (send Config.can (if k + 1 < Config.canAbortCount then .can3 (k + 1) o else .finish o) s)
  | _ => .refused .notAtItsPoint

/-- EMIT.EOT (R214): `Send(EOT); R.EOTN <- R.EOTN + 1`, then check point b12. -/
def execEmitEot (s : State) : Res :=
  atPoint (s.cs == .txSendEot) (send Config.eot (.check (.before .txEot)) { s with eotn := s.eotn + 1 })

end Sys2Proof.Machine
end

