-- ==== Sys2Proof/Machine/Frame.lean ====
section
/-! DEFINITION. The FRAME rows: a packet frame "sent by the transmitter, read by the receiver" (spec/30_encoding.md
R82, opcode_table.json). Where CS is at the sending of the frame, a row performs the next `Send` of R210; where CS is
at the receiver's classification, it performs R167 to R170 on the frame that was read. -/

namespace Sys2Proof.Machine

/-- R210: `Send(FRAME[i])`; after the last byte `R.TRIES <- R.TRIES + 1`, and the response is read unless MODE is
GMODE. -/
def sendFrameByte (i : Nat) (b : Byte) (s : State) : State :=
  if i + 1 < frameLength s.bsize s.tsize then send b (.txSend (i + 1)) s
  else send b (if s.mode = .gmode then .txAcked else .check (.before .txRsp)) { s with tries := s.tries + 1 }

/-- A frame of that size with those bytes, at the point where it is sent or where it was read. -/
def runFrame (bs : BlockSize) (ts : TrailerSize) (f : List Byte) (s : State) : Res :=
  match s.cs with
  | .rxClassify =>
    atPoint (s.bsize == bs && s.tsize == ts) (answerPacket (classify s.mode bs.bytes f s.seq) s)
  | .txSend i =>
    match f[i]? with
    | some b => atPoint (s.bsize == bs && s.tsize == ts) (sendFrameByte i b s)
    | none => .refused .notAtItsPoint
  | _ => .refused .notAtItsPoint

/-- FRAME.SOH.ARITH (R82, R167, R210). -/
def execFrameSohArith (seq cpl : Byte) (payload : List Byte) (sum : Byte) (s : State) : Res :=
  runFrame .small .one (frameOf Config.soh seq cpl payload [sum]) s

/-- FRAME.SOH.CRC (R82, R167, R210). -/
def execFrameSohCrc (seq cpl : Byte) (payload : List Byte) (crc : U16) (s : State) : Res :=
  runFrame .small .two (frameOf Config.soh seq cpl payload (crcBytes crc)) s

/-- FRAME.STX.ARITH (R82, R167, R210). -/
def execFrameStxArith (seq cpl : Byte) (payload : List Byte) (sum : Byte) (s : State) : Res :=
  runFrame .large .one (frameOf Config.stx seq cpl payload [sum]) s

/-- FRAME.STX.CRC (R82, R167, R210). -/
def execFrameStxCrc (seq cpl : Byte) (payload : List Byte) (crc : U16) (s : State) : Res :=
  runFrame .large .two (frameOf Config.stx seq cpl payload (crcBytes crc)) s

end Sys2Proof.Machine
end

