-- ==== Sys2Proof/Machine/Transmitter.lean ====
section
/-! DEFINITION. The transmitter sequencer (spec/43_transmitter.md R202): the TX rows, and the parts of the listing
that no row of the opcode table stands for. -/

namespace Sys2Proof.Machine

/-! ### Negotiation (R203 to R206) -/

/-- R204: `R.MODE <- m; goto TX_BLOCK`. -/
def selectMode (m : Mode) (s : State) : State := { s with mode := m, cs := .txBlock }

/-- TX.NEG.G (R204). -/
def execTxNegG (s : State) : Res := atPoint (s.answering .txNeg) (selectMode .gmode s)

/-- TX.NEG.C (R204). -/
def execTxNegC (s : State) : Res := atPoint (s.answering .txNeg) (selectMode .crc s)

/-- TX.NEG.NAK (R204). -/
def execTxNegNak (s : State) : Res := atPoint (s.answering .txNeg) (selectMode .arith s)

/-- TX.NEG.CAN (R205): check point b4 and the second read follow. -/
def execTxNegCan (s : State) : Res := atPoint (s.answering .txNeg) (s.goto (.check (.before .txNegCan)))

/-- TX.NEG.OTHER (R206): the attempt ends. -/
def execTxNegOther (_r : Answer) (s : State) : Res :=
  atPoint (s.answering .txNeg) (s.goto (.check (.head .txNHead)))

/-- R203, R206: the exhaustion test of TX_NHEAD, else `R.ATT <- R.ATT + 1` and check point b2. -/
def negotiationTest (s : State) : State :=
  if s.att = Config.txNegAttempts then s.goto (.can3 0 .syncError)
  else { s with att := s.att + 1, cs := .check (.before .txNeg) }

/-! ### The response to a packet (R211, R212) -/

/-- TX.RSP.ACK (R211): the packet is acknowledged. -/
def execTxRspAck (s : State) : Res := atPoint (s.answering .txRsp) (s.goto .txAcked)

/-- TX.RSP.CAN (R211): check point b9 and the second read follow. -/
def execTxRspCan (s : State) : Res := atPoint (s.answering .txRsp) (s.goto (.check (.before .txRspCan)))

/-- TX.RSP.NAK (R211): retransmission. -/
def execTxRspNak (s : State) : Res := atPoint (s.answering .txRsp) (s.goto (.check (.head .txSHead)))

/-- TX.RSP.OTHER (R211): any other byte and a timeout retransmit too. -/
def execTxRspOther (_r : Answer) (s : State) : Res :=
  atPoint (s.answering .txRsp) (s.goto (.check (.head .txSHead)))

/-- R205, R211: after a CAN, a second CAN is a remote cancel; any other answer is dropped and the loop goes on. -/
def secondCanTx (h : LoopHead) (r2 : Answer) (s : State) : State :=
  s.goto (if r2 = .byte Config.can then .flush .txCancel else .check (.head h))

/-- R212 TX_ACKED. -/
def packetAcked (s : State) : State :=
  { s with
    seq := s.seq + 1#8
    bytes := s.bytes + BitVec.ofNat 32 s.nfetch
    cs := if s.ctrl then .finish .done else .txBlock }

/-! ### Building a packet (R207, R208, R213) -/

/-- R207, R213 TX_BLOCK up to its `Fetch`. -/
def chooseBlock (s : State) : State :=
  if s.ctrl = false ∧ (s.remaining = 0 ∨ s.eod = true) then s.goto .txEot
  else { s with bsize := blockSizeFor s.use1k s.remaining, cs := .txFetch }

/-- R208: `p <- l ++ [fill; R.BSIZE - len(l)]`. -/
def paddedPayload (l : List Byte) (s : State) : List Byte :=
  l ++ List.replicate (s.bsize.bytes - l.length) (fillByte s.ctrl)

/-- R208: the frame of a payload. -/
def builtFrame (p : List Byte) (s : State) : List Byte :=
  frameOf s.bsize.header s.seq (complement s.seq) p (trailer s.mode p)

/-- R208: the frame is written and TRIES starts at 0. -/
def assembleFrame (l : List Byte) (s : State) : Res :=
  ofExcept (memWrite 0 (builtFrame (paddedPayload l s) s)
    { s with tsize := s.mode.trailerSize, tries := 0, cs := .check (.head .txSHead) })

/-- R207, R213: `l <- Fetch(cap)`, NFETCH, EOD; an empty fetch outside control mode goes to EOT, else the frame is
assembled. A listed answer longer than the capacity breaks the port's contract (R284, I9). -/
def fetchBlock (s : State) : Res :=
  match drawFetch s.fetchCapacity s with
  | (l, s1) =>
    if s.fetchCapacity < l.length then .refused .sourceOverrun
    else
      let s2 := { s1 with
        nfetch := l.length
        eod := s1.eod || decide (l.length < s.fetchCapacity)
        hist := .fetch s.fetchCapacity l :: s1.hist }
      if s2.ctrl = false ∧ l = [] then .next (s2.goto .txEot) else assembleFrame l s2

/-- R209: the retransmission cap of TX_SHEAD. -/
def capTest (s : State) : State :=
  s.goto (if s.tries = Config.txRetryCap then .can3 0 .transmitError else .txSend 0)

/-! ### The end of the transmission (R214, R215) -/

/-- TX.EOT.ACK (R214, R217): `raise Terminate(DONE)` follows. -/
def execTxEotAck (s : State) : Res := atPoint (s.answering .txEot) (s.goto (.finish .done))

/-- TX.EOT.OTHER (R214): EOT is sent again. -/
def execTxEotOther (_r : Answer) (s : State) : Res :=
  atPoint (s.answering .txEot) (s.goto (.check (.head .txEHead)))

/-- R214: `TX_EOT: R.EOTN <- 0`. -/
def enterEot (s : State) : State := { s with eotn := 0, cs := .check (.head .txEHead) }

/-- R214, R215: after EOT_TRIES the session ends NO_FINAL_ACK, else EOT is sent. -/
def eotTest (s : State) : State :=
  s.goto (if s.eotn = Config.eotTries then .finish .noFinalAck else .txSendEot)

end Sys2Proof.Machine
end

