-- ==== Sys2Proof/Machine/Dispatch.lean ====
section
/-! DEFINITION. One arm per row of spec/opcode_table.json. -/

namespace Sys2Proof.Machine

def exec (i : Instr) (s : State) : Host.Outcome State Fault Refusal :=
  match i with
  | .cmdNop ign => Sys2Proof.Machine.execCmdNop ign s
  | .cmdReceiveArith u c => Sys2Proof.Machine.execCmdReceiveArith u c s
  | .cmdReceiveCrc u c => Sys2Proof.Machine.execCmdReceiveCrc u c s
  | .cmdReceiveGmode u c => Sys2Proof.Machine.execCmdReceiveGmode u c s
  | .cmdTransmit k u c => Sys2Proof.Machine.execCmdTransmit k u c s
  | .cmdIllegal w => Sys2Proof.Machine.execCmdIllegal w s
  | .rxHdrSoh => Sys2Proof.Machine.execRxHdrSoh s
  | .rxHdrStx => Sys2Proof.Machine.execRxHdrStx s
  | .rxHdrEot => Sys2Proof.Machine.execRxHdrEot s
  | .rxHdrCan => Sys2Proof.Machine.execRxHdrCan s
  | .rxHdrOther r => Sys2Proof.Machine.execRxHdrOther r s
  | .rxBodyByte b => Sys2Proof.Machine.execRxBodyByte b s
  | .txNegG => Sys2Proof.Machine.execTxNegG s
  | .txNegC => Sys2Proof.Machine.execTxNegC s
  | .txNegNak => Sys2Proof.Machine.execTxNegNak s
  | .txNegCan => Sys2Proof.Machine.execTxNegCan s
  | .txNegOther r => Sys2Proof.Machine.execTxNegOther r s
  | .txRspAck => Sys2Proof.Machine.execTxRspAck s
  | .txRspCan => Sys2Proof.Machine.execTxRspCan s
  | .txRspNak => Sys2Proof.Machine.execTxRspNak s
  | .txRspOther r => Sys2Proof.Machine.execTxRspOther r s
  | .txEotAck => Sys2Proof.Machine.execTxEotAck s
  | .txEotOther r => Sys2Proof.Machine.execTxEotOther r s
  | .emitNegG => Sys2Proof.Machine.execEmitNegG s
  | .emitNegC => Sys2Proof.Machine.execEmitNegC s
  | .emitNegNak => Sys2Proof.Machine.execEmitNegNak s
  | .emitAck => Sys2Proof.Machine.execEmitAck s
  | .emitNak => Sys2Proof.Machine.execEmitNak s
  | .emitCan3 => Sys2Proof.Machine.execEmitCan3 s
  | .emitEot => Sys2Proof.Machine.execEmitEot s
  | .frameSohArith q c p t => Sys2Proof.Machine.execFrameSohArith q c p t s
  | .frameSohCrc q c p t => Sys2Proof.Machine.execFrameSohCrc q c p t s
  | .frameStxArith q c p t => Sys2Proof.Machine.execFrameStxArith q c p t s
  | .frameStxCrc q c p t => Sys2Proof.Machine.execFrameStxCrc q c p t s

end Sys2Proof.Machine
end

