-- ==== Sys2Proof/Machine/Run.lean ====
section
/-! DEFINITION. What happens next: the row that stands at the point where CS is, the listings' primitives that no row
stands for, and a host access (spec/10_state.md R23, R24; spec/20_memory.md R65, R69; spec/45_host_interface.md R270
to R272). -/

namespace Sys2Proof.Machine

/-- The frame in FRAME[0 .. 3+BSIZE+TSIZE], as an encoded row. -/
def frameCode (s : State) : Except Fault (Option Code) :=
  match memRead 0 (frameLength s.bsize s.tsize) s with
  | .ok f => .ok (some (.frame f))
  | .error e => .error e

/-- The encoded row the block runs next; none where the listing's primitive is no row of the table. -/
def codeAt (s : State) : Except Fault (Option Code) :=
  match s.cs with
  | .answer (.rxBody _) .timeout => .ok none
  | .answer p r => .ok (p.answerPoint.map (fun a => Code.answer a r))
  | .rxNeg =>
    match negByte s.mode with
    | some b => .ok (some (.sent .neg [b]))
    | none => .error .negByteOfNone
  | .ack _ => .ok (some (.sent .ack [Config.ackByte]))
  | .nak => .ok (some (.sent .nak [Config.nakByte]))
  | .can3 _ _ => .ok (some (.sent .can3 [Config.can, Config.can, Config.can]))
  | .txSendEot => .ok (some (.sent .eot [Config.eot]))
  | .rxClassify => frameCode s
  | .txSend _ => frameCode s
  | .idle => .ok none
  | .check _ => .ok none
  | .recv _ => .ok none
  | .rxWait => .ok none
  | .rxTest => .ok none
  | .rxCount => .ok none
  | .rxBody => .ok none
  | .rxStore => .ok none
  | .flush _ => .ok none
  | .finish _ => .ok none
  | .txNegTest => .ok none
  | .txBlock => .ok none
  | .txFetch => .ok none
  | .txCapTest => .ok none
  | .txAcked => .ok none
  | .txEot => .ok none
  | .txEotTest => .ok none

/-- An encoded row is decoded and its meaning executed. -/
def runCode (c : Code) (s : State) : Res :=
  match decode c with
  | .ok i => exec i s
  | .error why => .fault (.undecodable why)

/-- What follows each `Flush()` (R174, R175, R205, R211). -/
def afterFlush : FlushSite → Cs
  | .rxCancel => .ack .cancel
  | .retryExceeded => .can3 0 .retryExceeded
  | .txCancel => .finish .remoteCancelled

/-- The primitives of the two listings that no row of the opcode table stands for. Where a row stands, the sequencer
itself has none. -/
def sequencer (s : State) : Res :=
  match s.cs with
  | .idle => .next s
  | .check c => .next (checkAbort c s)
  | .recv p => .next (receive p s)
  | .answer (.rxBody _) .timeout => .next (s.goto .nak)
  | .answer .rxCan r2 => .next (secondCanRx r2 s)
  | .answer .txNegCan r2 => .next (secondCanTx .txNHead r2 s)
  | .answer .txRspCan r2 => .next (secondCanTx .txSHead r2 s)
  | .rxWait => .next (enterWait s)
  | .rxTest => .next (headerTest s)
  | .rxCount => .next (countAttempt s)
  | .rxBody => enterBody s
  | .rxStore => storePacket s
  | .flush site => .next (flushInput (afterFlush site) s)
  | .finish o => .next (terminate o s)
  | .txNegTest => .next (negotiationTest s)
  | .txBlock => .next (chooseBlock s)
  | .txFetch => fetchBlock s
  | .txCapTest => .next (capTest s)
  | .txAcked => .next (packetAcked s)
  | .txEot => .next (enterEot s)
  | .txEotTest => .next (eotTest s)
  | .answer .rxHdr _ => .refused .notAtItsPoint
  | .answer (.rxBody _) (.byte _) => .refused .notAtItsPoint
  | .answer .txNeg _ => .refused .notAtItsPoint
  | .answer .txRsp _ => .refused .notAtItsPoint
  | .answer .txEot _ => .refused .notAtItsPoint
  | .rxNeg => .refused .notAtItsPoint
  | .rxClassify => .refused .notAtItsPoint
  | .ack _ => .refused .notAtItsPoint
  | .nak => .refused .notAtItsPoint
  | .can3 _ _ => .refused .notAtItsPoint
  | .txSend _ => .refused .notAtItsPoint
  | .txSendEot => .refused .notAtItsPoint

/-- R24: "While BUSY is 1, CS moves through its listing in order, one primitive at a time … While BUSY is 0, CS stays
`IDLE`". -/
def runPoint (s : State) : Res :=
  if s.busy then
    match codeAt s with
    | .error f => .fault f
    | .ok (some c) => runCode c s
    | .ok none => sequencer s
  else .next s

/-- R270 to R272, R64: a host access. -/
def hostAccess (a : HostAccess) (s : State) : Res :=
  match a with
  | .read width off =>
    match hostReg width off with
    | some r => .next (s.record (.hostRd r (s.hostValue r)))
    | none => .refused .undefinedHostAccess
  | .write width off v =>
    match hostReg width off with
    | some .cmd => runCode (.cmdWord v) (s.record (.hostWr .cmd v))
    | some .length => .next ({ s with length := v }.record (.hostWr .length v))
    | some .status => .next (s.record (.hostWr .status v))
    | some .count => .next (s.record (.hostWr .count v))
    | none => .refused .undefinedHostAccess

/-- The points whose primitive is computation and no event (R6, R13): "between two events the block performs any amount
of internal computation, which is not observable", so no host access and no reset lands there (R65). -/
def Cs.internal : Cs → Bool
  | .answer _ _ => true
  | .rxWait => true
  | .rxTest => true
  | .rxCount => true
  | .rxBody => true
  | .rxClassify => true
  | .txNegTest => true
  | .txBlock => true
  | .txCapTest => true
  | .txAcked => true
  | .txEot => true
  | .txEotTest => true
  | .idle => false
  | .check _ => false
  | .recv _ => false
  | .rxNeg => false
  | .rxStore => false
  | .ack _ => false
  | .nak => false
  | .can3 _ _ => false
  | .flush _ => false
  | .finish _ => false
  | .txFetch => false
  | .txSend _ => false
  | .txSendEot => false

/-- Internal computation goes on whatever the schedule says. -/
def State.computing (s : State) : Bool := s.busy && s.cs.internal

/-- R337: the points whose primitive a port may keep waiting, "a `Recv` with a timeout argument, a `Send`, a `Store` or a
`Fetch`". An abort sample, a `Flush` and `Terminate` do not wait. -/
def Cs.waits : Cs → Bool
  | .recv _ => true
  | .rxNeg => true
  | .rxStore => true
  | .ack _ => true
  | .nak => true
  | .can3 _ _ => true
  | .txFetch => true
  | .txSend _ => true
  | .txSendEot => true
  | .idle => false
  | .check _ => false
  | .answer _ _ => false
  | .rxWait => false
  | .rxTest => false
  | .rxCount => false
  | .rxBody => false
  | .rxClassify => false
  | .flush _ => false
  | .finish _ => false
  | .txNegTest => false
  | .txBlock => false
  | .txCapTest => false
  | .txAcked => false
  | .txEot => false
  | .txEotTest => false

/-- A transaction of the block is outstanding on a port. -/
def State.onPort (s : State) : Bool := s.busy && s.cs.waits

/-- Whose move it is: what the schedule says, and past its end the sequencer's. A port keeps the block waiting only where
a transaction is outstanding, and one that hangs does so at every move of the sequencer (R337). -/
def State.turn (s : State) : Turn :=
  match s.sched.headD .seq with
  | .seq => if s.onPort && s.hung then .wait else .seq
  | .wait => if s.onPort then .wait else .seq
  | .hang => if s.onPort then .hang else .seq
  | .host a => .host a
  | .reset => .reset

/-- One step: internal computation, or the move of `State.turn`. -/
def stepOnce (s : State) : Res :=
  if s.computing then runPoint s
  else
    match s.turn with
    | .seq => runPoint (popTurn s)
    | .host a => hostAccess a (popTurn s)
    | .reset => .next (hwReset (popTurn s))
    | .wait => .next (popTurn s)
    | .hang => .next { popTurn s with hung := true }

/-! ### Placing one instruction (withFetchWord, Step.lean) -/

/-- The sequencer is to move next, at an event point. -/
def placeEvent (c : Cs) (s : State) : State :=
  { s with busy := true, cs := c, sched := .seq :: s.sched, hung := false }

/-- An answer stands decoded at its read. -/
def placeAnswer (p : AnswerPoint) (r : Answer) (s : State) : State :=
  let q : ReadPoint := match p with
    | .hdr => .rxHdr
    | .body => .rxBody 0
    | .neg => .txNeg
    | .rsp => .txRsp
    | .eot => .txEot
  { s with busy := true, cs := .answer q r, hung := false }

/-- The negotiation symbol is sent in the mode it stands for. -/
def modeOfNeg (bytes : List Byte) : Mode :=
  if bytes = [Config.ascG] then .gmode else if bytes = [Config.ascC] then .crc else .arith

/-- A symbol is to be sent, at a point of its row. -/
def placeSent (p : SentPoint) (bytes : List Byte) (s : State) : State :=
  match p with
  | .neg => placeEvent .rxNeg { s with mode := modeOfNeg bytes }
  | .ack => placeEvent (.ack .eot) s
  | .nak => placeEvent .nak s
  | .can3 => placeEvent (.can3 0 .syncError) s
  | .eot => placeEvent .txSendEot s

/-- A frame is in FRAME and is to be sent. -/
def placeFrame (bytes : List Byte) (s : State) : State :=
  let bs : BlockSize := if bytes.head? = some Config.stx then .large else .small
  let ts : TrailerSize := if bytes.length = frameLength bs .one then .one else .two
  placeEvent (.txSend 0) { s with bsize := bs, tsize := ts, frame := s.frame.writeList 0 bytes }

/-- A word is to be written to CMD: the host moves next. Internal computation cannot be interrupted, so a state in the
middle of one is made idle. -/
def placeCmd (w : Word) (s : State) : State :=
  if s.computing then
    { s with busy := false, cs := .idle, sched := HostReg.cmd.wr w :: s.sched, hung := false }
  else { s with sched := HostReg.cmd.wr w :: s.sched }

/-- The encoded row is the next thing the machine runs. -/
def placeCode (c : Code) (s : State) : State :=
  match c with
  | .cmdWord w => placeCmd w s
  | .answer p r => placeAnswer p r s
  | .sent p bytes => placeSent p bytes s
  | .frame bytes => placeFrame bytes s

end Sys2Proof.Machine
end

