-- ==== Sys2Proof/Machine/Step.lean ====
section
/-! DEFINITION. The machine's step, and how one instruction is placed where the step finds it. -/

namespace Sys2Proof.Machine

/-- One step of the machine: at most one event (spec/00_scope.md R6). -/
def step (s : State) : Host.Outcome State Fault Refusal := stepOnce s

/-- `s` with the instruction the table numbers (nbits, w) placed where `step` runs it next; a word that is no
instruction leaves `s` as it is. The block fetches no instruction stream (R72), so what this sets is the point the row
belongs to and what the row decodes there (notes/assumptions/6.md). -/
def State.withFetchWord (s : State) (nbits w : Nat) : State :=
  match decodeTableWord nbits w with
  | some _ => placeCode (tableCode nbits w) s
  | none => s

end Sys2Proof.Machine
end

