-- ==== Sys2Proof/Safety.lean ====
section
/-! DEFINITION. What a safe run is, in the terms the statements use: the invariant of the state, what a step may be
asked to do by its surroundings, and the yardsticks the spec gives for its functions. -/

namespace Sys2Proof.Machine

/-! ### What CS says about the other registers -/

/-- R276, R277, R300: the outcomes that end a session of that role. -/
def OutcomeCode.endsSession (o : OutcomeCode) : Role → Bool
  | .receiving => [OutcomeCode.done, .userAborted, .remoteCancelled, .syncError, .retryExceeded].contains o
  | .transmitting =>
    [OutcomeCode.done, .userAborted, .remoteCancelled, .syncError, .transmitError, .noFinalAck].contains o

/-- The first n bytes of FRAME were written. -/
def State.written (s : State) (n : Nat) : Prop := ∀ i, i < n → (s.frame.read i).isSome = true

/-- A RECEIVE session runs and its guard has not reached the cap (R22, R26, R173). -/
def State.receiving (s : State) : Prop :=
  s.role = .receiving ∧ s.mode ≠ .none ∧ s.guard < Config.rxRetryCap

/-- The body of a packet is being read: the header byte is in FRAME[0], TSIZE is MODE's (R164). -/
def State.inBody (s : State) : Prop :=
  s.receiving ∧ s.neg = false ∧ s.tsize = s.mode.trailerSize ∧ s.frame.read 0 = some s.bsize.header

/-- The transmitter waits for its negotiation byte (R200). -/
def State.negotiating (s : State) : Prop := s.role = .transmitting ∧ s.mode = .none

/-- The transmitter's mode is selected (R26). -/
def State.transmitting (s : State) : Prop := s.role = .transmitting ∧ s.mode ≠ .none

/-- FRAME holds the packet of R208 and the bytes it carries are still due (R28, R74). -/
def State.packetBuilt (s : State) : Prop :=
  s.transmitting ∧ s.tsize = s.mode.trailerSize ∧ s.nfetch ≤ s.bsize.bytes
    ∧ s.bytes.toNat + s.nfetch ≤ s.limit.toNat
    ∧ ∃ p : List Byte, p.length = s.bsize.bytes
      ∧ s.frame.readList 0 (frameLength s.bsize s.tsize) = some (builtFrame p s)

/-- What holds around each read. -/
def State.readInv (s : State) : ReadPoint → Prop
  | .rxHdr => s.receiving
  | .rxCan => s.receiving
  | .rxBody k => s.inBody ∧ k < bodyLength s.bsize s.tsize ∧ s.written (k + 1)
  | .txNeg => s.negotiating
  | .txNegCan => s.negotiating
  | .txRsp => s.packetBuilt ∧ s.mode ≠ .gmode
  | .txRspCan => s.packetBuilt ∧ s.mode ≠ .gmode
  | .txEot => s.transmitting ∧ s.ctrl = false

/-- What holds at each loop head. -/
def State.headInv (s : State) : LoopHead → Prop
  | .rxHead => s.receiving
  | .txNHead => s.negotiating
  | .txSHead => s.packetBuilt
  | .txEHead => s.transmitting ∧ s.ctrl = false

/-- What holds at each point of the two listings. -/
def State.pointInv (s : State) : Prop :=
  match s.cs with
  | .idle => True
  | .check (.head h) => s.headInv h
  | .check (.before p) => s.readInv p
  | .check (.after p _) => s.readInv p
  | .recv p => s.readInv p
  | .answer p _ => s.readInv p
  | .rxWait => s.receiving
  | .rxTest => s.receiving
  | .rxNeg => s.receiving ∧ s.neg = true ∧ s.att < Config.negAttempts
  | .rxCount => s.receiving ∧ s.att < Config.negAttempts
  | .rxBody => s.receiving ∧ s.hdr = s.bsize.header
  | .rxClassify => s.inBody ∧ s.written (frameLength s.bsize s.tsize)
  | .rxStore => s.inBody ∧ s.written (frameLength s.bsize s.tsize)
  | .ack site => s.receiving ∧ (site = .accepted ∨ site = .duplicate → s.mode ≠ .gmode)
  | .nak => s.receiving
  | .can3 k o => k < Config.canAbortCount
      ∧ (o = .syncError ∨ (s.role = .receiving ∧ o = .retryExceeded) ∨ (s.role = .transmitting ∧ o = .transmitError))
  | .flush .rxCancel => s.receiving
  | .flush .retryExceeded => s.role = .receiving
  | .flush .txCancel => s.role = .transmitting
  | .finish o => o.endsSession s.role = true
  | .txNegTest => s.negotiating
  | .txBlock => s.transmitting
  | .txFetch => s.transmitting ∧ s.bsize = blockSizeFor s.use1k s.remaining
      ∧ (s.ctrl = false → s.remaining ≠ 0 ∧ s.eod = false)
  | .txCapTest => s.packetBuilt
  | .txSend i => s.packetBuilt ∧ s.tries < Config.txRetryCap ∧ i < frameLength s.bsize s.tsize
  | .txAcked => s.packetBuilt
  | .txEot => s.transmitting ∧ s.ctrl = false
  | .txEotTest => s.transmitting ∧ s.ctrl = false
  | .txSendEot => s.transmitting ∧ s.ctrl = false ∧ s.eotn < Config.eotTries

/-! ### The invariant -/

/-- The invariant every step keeps: the legal values of the registers (R22), BUSY against CS (R23), BYTES against
LIMIT (R28), FRAME's canonical form, and what CS says about the other registers. -/
structure State.Inv (s : State) : Prop where
  /-- R23: CS "is `IDLE` exactly when STATUS.BUSY is 0" -/
  busy_iff : s.busy = true ↔ s.cs ≠ .idle
  /-- R42: OUTCOME is NONE while a session runs -/
  outcome_clear : s.busy = true → s.outcome = .none
  /-- R28: `BYTES <= LIMIT` -/
  bytes_le : s.bytes.toNat ≤ s.limit.toNat
  /-- R22: GUARD in 0..RX_RETRY_CAP -/
  guard_le : s.guard ≤ Config.rxRetryCap
  /-- R22: ATT in 0..NEG_ATTEMPTS; TX_NEG_ATTEMPTS is the same number -/
  att_le : s.att ≤ Config.negAttempts
  /-- R22: TRIES in 0..TX_RETRY_CAP -/
  tries_le : s.tries ≤ Config.txRetryCap
  /-- R22: EOTN in 0..EOT_TRIES -/
  eotn_le : s.eotn ≤ Config.eotTries
  /-- R22: NFETCH in 0..1024 -/
  nfetch_le : s.nfetch ≤ Config.blkLarge
  /-- FRAME is in its canonical form -/
  frame_wf : s.frame.wf
  /-- R337: a port hangs only with a transaction outstanding -/
  hung_onPort : s.hung = true → s.onPort = true
  /-- what CS says about the other registers -/
  point : s.pointInv

/-! ### What the surroundings may ask for -/

/-- R64: the access is a 32-bit one at 0x0, 0x4, 0x8 or 0xC. -/
def HostAccess.defined : HostAccess → Bool
  | .read w off => (hostReg w off).isSome
  | .write w off _ => (hostReg w off).isSome

/-- R52, I9: the source's next listed answer fits the capacity asked for. -/
def State.sourceFits (s : State) : Bool :=
  match s.src with
  | l :: _ => decide (l.length ≤ s.fetchCapacity)
  | [] => true

/-- The next move keeps the contracts of the host bus (R64) and of the source (R52). -/
def State.legalMove (s : State) : Prop :=
  s.computing = true ∨
    match s.turn with
    | .seq => s.cs = .txFetch → s.sourceFits = true
    | .host a => a.defined = true
    | .reset => True
    | .wait => True
    | .hang => True

/-- The schedule is empty and no port hangs: from here on no host access, no reset and no transaction that does not
complete. -/
def State.undisturbed (s : State) : Prop := s.sched = [] ∧ s.hung = false

/-! ### Yardsticks -/

/-- R114: one bit of the polynomial 0x1021, most significant bit first. -/
def crcBit (c : U16) : U16 := if c.msb then (c <<< 1) ^^^ 0x1021#16 else c <<< 1

/-- R114: `c <- c xor (b << 8)`, then eight times `crcBit`. -/
def crcStepBitwise (c : U16) (b : Byte) : U16 :=
  crcBit (crcBit (crcBit (crcBit (crcBit (crcBit (crcBit (crcBit (c ^^^ (b.setWidth 16 <<< 8)))))))))

/-- A frame whose complement and trailer are right: what R208 builds for a payload. -/
def validFrame (m : Mode) (hdr seq : Byte) (p : List Byte) : List Byte :=
  frameOf hdr seq (complement seq) p (trailer m p)

/-- One payload bit changed. -/
def flipBit (p : List Byte) (i k : Nat) : List Byte := p.modify i (fun b => b ^^^ (1#8 <<< k))

/-- `n` steps, stopping at the first fault or refusal. -/
def steps : Nat → State → Res
  | 0, s => .next s
  | n + 1, s =>
    match step s with
    | .next t => steps n t
    | .fault f => .fault f
    | .refused r => .refused r

end Sys2Proof.Machine
end

