-- ==== Sys2Proof/Certificates/Slice0/Obligations.lean ====
section
/-! DEFINITION. The statements for the provers. `{ s with … }` after `.next` is the whole next state: every register,
FRAME, the schedule, the listed answers and the history that the braces do not name are as in `s`. A rule a docstring
names is stated whole where OBLIGATIONS.json says "stated". -/

open Sys2Proof Sys2Proof.Machine

/-! ### Encodings -/

/-- Decoding an encoded well-formed instruction, at the point its row belongs to, gives it back with every operand
(30_encoding.md, R82 to R94). -/
def Obligations.DecodeOfEncodeIsIdentity : Prop :=
  ∀ i : Instr, i.wf = true → decode (encode i) = .ok i

/-- What the decoder accepts is well formed, and the encoder gives back the very form it was read from: no bit of a
CMD word, of an answer or of a frame is dropped. -/
def Obligations.EncodeOfDecodeIsIdentity : Prop :=
  ∀ (c : Code) (i : Instr), decode c = .ok i → i.wf = true ∧ encode i = c

/-- Words written out from the tables of 30_encoding.md, one of each kind of encoded form. -/
def Obligations.WrittenOutWordsDecode : Prop :=
  decode (.cmdWord 0x00000025#32) = .ok (.cmdReceiveCrc false true)
    ∧ decode (.cmdWord 0x0000003E#32) = .ok (.cmdTransmit 3#2 true true)
    ∧ decode (.cmdWord 0x0000000D#32) = .ok (.cmdIllegal 0x0000000D#32)
    ∧ decode (.answer .hdr (.byte 0x18#8)) = .ok .rxHdrCan
    ∧ decode (.answer .neg (.byte 0x18#8)) = .ok .txNegCan
    ∧ decode (.answer .rsp (.byte 0x18#8)) = .ok .txRspCan
    ∧ decode (.answer .eot (.byte 0x18#8)) = .ok (.txEotOther (.byte 0x18#8))
    ∧ decode (.answer .body (.byte 0x18#8)) = .ok (.rxBodyByte 0x18#8)
    ∧ decode (.sent .can3 [0x18#8, 0x18#8, 0x18#8]) = .ok .emitCan3
    ∧ decode (.frame ([0x01#8, 0x03#8, 0xFC#8] ++ List.replicate 128 0#8 ++ [0x12#8, 0x34#8]))
        = .ok (.frameSohCrc 0x03#8 0xFC#8 (List.replicate 128 0#8) 0x1234#16)

/-- R92: every legal command word (bits 31:6 zero) and what each ignores: NOP bits 5:2, RECEIVE bit 4 (USE1K),
TRANSMIT bits 3:2 (CKPREF). R275: a NOP changes nothing, idle or not. -/
def Obligations.CommandWordTable : Prop :=
  ∀ (w : Word) (s : State), w.toNat < 64 →
    (w.toNat % 4 = 0 →
        decode (.cmdWord w) = .ok (.cmdNop (w.extractLsb' 2 4)) ∧ ∀ ign, exec (.cmdNop ign) s = .next s)
      ∧ (w.toNat % 4 = 1 → w.toNat / 4 % 4 = 0 →
          decode (.cmdWord w) = .ok (.cmdReceiveArith (w.getLsbD 4) (w.getLsbD 5)))
      ∧ (w.toNat % 4 = 1 → w.toNat / 4 % 4 = 1 →
          decode (.cmdWord w) = .ok (.cmdReceiveCrc (w.getLsbD 4) (w.getLsbD 5)))
      ∧ (w.toNat % 4 = 1 → w.toNat / 4 % 4 = 2 →
          decode (.cmdWord w) = .ok (.cmdReceiveGmode (w.getLsbD 4) (w.getLsbD 5)))
      ∧ (w.toNat % 4 = 1 → w.toNat / 4 % 4 ≠ 3 →
          runCode (.cmdWord (w ^^^ 0x10#32)) s = runCode (.cmdWord w) s)
      ∧ (w.toNat % 4 = 2 →
          decode (.cmdWord w) = .ok (.cmdTransmit (w.extractLsb' 2 2) (w.getLsbD 4) (w.getLsbD 5))
            ∧ ∀ k : BitVec 2, runCode (.cmdWord (w ^^^ (k.setWidth 32 <<< 2))) s = runCode (.cmdWord w) s)

/-- R94, R274: which CMD words are illegal, and what a write of one does. -/
def Obligations.IllegalCommandWords : Prop :=
  ∀ (w : Word) (s : State),
    (decode (.cmdWord w) = .ok (.cmdIllegal w)
        ↔ (w.toNat / 64 ≠ 0 ∨ w.toNat % 4 = 3 ∨ (w.toNat % 4 = 1 ∧ w.toNat / 4 % 4 = 3)))
      ∧ (s.busy = false → exec (.cmdIllegal w) s = .next { s with outcome := .badCommand })
      ∧ (s.busy = true → exec (.cmdIllegal w) s = .next s)

/-! ### The checksum engine -/

/-- R111: `Sum8` is the sum modulo 256, with its corner cases and its example. -/
def Obligations.Sum8IsSumModulo256 : Prop :=
  (∀ p : List Byte, (sum8 p).toNat = (p.map BitVec.toNat).sum % 256)
    ∧ (∀ p q : List Byte, p.Perm q → sum8 p = sum8 q)
    ∧ (∀ p q : List Byte, sum8 (p ++ 0#8 :: q) = sum8 (p ++ q))
    ∧ (∀ v : Byte, sum8 (List.replicate 1024 v) = 0#8)
    ∧ sum8 [] = 0#8
    ∧ sum8 (List.replicate 128 0xFF#8) = 0x80#8
    ∧ sum8 [0x31#8, 0x32#8, 0x33#8, 0x34#8, 0x35#8, 0x36#8, 0x37#8, 0x38#8, 0x39#8] = 0xDD#8

/-- R114: the byte-at-a-time step is the bitwise step of the polynomial 0x1021 on every pair, so `Crc16` is that CRC
with initial value 0. -/
def Obligations.CrcStepIsThePolynomialStep : Prop :=
  (∀ (c : U16) (b : Byte), crcStep c b = crcStepBitwise c b)
    ∧ ∀ p : List Byte, crc16 p = p.foldl crcStepBitwise 0#16

/-- R115, R116, R117: of the trailers of the mode's length, exactly the one `Trailer` builds verifies; it is one byte
in ARITH, and the CRC's upper byte before its lower one otherwise. -/
def Obligations.OnlyTheBuiltTrailerVerifies : Prop :=
  ∀ (m : Mode) (p : List Byte), m ≠ .none →
    (m = .arith → trailer m p = [sum8 p])
      ∧ (m ≠ .arith → ∃ hi lo, trailer m p = [hi, lo] ∧ hi.toNat * 256 + lo.toNat = (crc16 p).toNat)
      ∧ ∀ t : List Byte, t.length = (trailer m p).length → (verify m p t = true ↔ t = trailer m p)

/-! ### The validator -/

/-- R131 to R134: the validator on every frame of the mode's length. -/
def Obligations.ClassifyEveryFrame : Prop :=
  ∀ (m : Mode) (hdr seq cpl exp : Byte) (p t : List Byte), m ≠ .none → t.length = m.trailerSize.bytes →
    classify m p.length (frameOf hdr seq cpl p t) exp =
      if cpl = 255#8 - seq ∧ t = trailer m p then
        if seq = exp then .accepted seq
        else if seq.toNat = (exp.toNat + 255) % 256 then .duplicate
        else .malformed
      else .malformed

/-- 41_validator.md and R118: a frame the transmitter builds, with any one bit changed anywhere after its header
byte, is Malformed whatever sequence is expected. -/
def Obligations.OneFlippedBitIsMalformed : Prop :=
  ∀ (m : Mode) (hdr seq exp : Byte) (p : List Byte) (j k : Nat), m ≠ .none → 1 ≤ j →
    j < (validFrame m hdr seq p).length → k < 8 →
      classify m p.length (flipBit (validFrame m hdr seq p) j k) exp = .malformed

/-! ### The host interface -/

/-- R95, with the codes of R93 and R96: every field of STATUS and where it lies. -/
def Obligations.StatusWordFields : Prop :=
  (∀ s : State,
    s.statusWord.toNat =
      (if s.busy then 1 else 0)
        + 2 * (match s.role with | .receiving => 0 | .transmitting => 1)
        + 4 * (match s.mode with | .arith => 0 | .crc => 1 | .gmode => 2 | .none => 3)
        + 16 * (match s.outcome with
            | .none => 0 | .done => 1 | .userAborted => 2 | .remoteCancelled => 3 | .syncError => 4
            | .retryExceeded => 5 | .transmitError => 6 | .noFinalAck => 7 | .badCommand => 8)
        + 256 * s.seq.toNat)
    ∧ (∀ s : State, s.busy = true → s.role = .receiving → s.mode = .crc → s.outcome = .none → s.seq = 1#8 →
        s.statusWord = 0x00000105#32)
    ∧ ∀ s : State, s.busy = false → s.role = .receiving → s.mode = .crc → s.outcome = .done → s.seq = 4#8 →
        s.statusWord = 0x00000414#32

/-- R271: what each register reads as, between two events, running or idle, with no side effect. That the access is
recorded as HostRd with what was read is the model's choice (notes/assumptions/13.md). -/
def Obligations.HostReadsHaveNoSideEffect : Prop :=
  ∀ (s : State) (off : Nat) (rest : List Turn), s.computing = false → s.sched = .host (.read 32 off) :: rest →
    (off = 0x0 → step s = .next { s with sched := rest, hist := .hostRd .cmd 0#32 :: s.hist })
      ∧ (off = 0x4 → step s = .next { s with sched := rest, hist := .hostRd .length s.length :: s.hist })
      ∧ (off = 0x8 → step s = .next { s with sched := rest, hist := .hostRd .status s.statusWord :: s.hist })
      ∧ (off = 0xC → step s = .next { s with sched := rest, hist := .hostRd .count s.bytes :: s.hist })

/-- R272, R279: a LENGTH write changes LENGTH (and not LIMIT) whether a session runs or not, STATUS and COUNT writes
change nothing, and a CMD write is the command. That each is recorded as HostWr is the model's choice
(notes/assumptions/13.md). -/
def Obligations.HostWrites : Prop :=
  ∀ (s : State) (off : Nat) (v : Word) (rest : List Turn), s.computing = false →
    s.sched = .host (.write 32 off v) :: rest →
    (off = 0x0 → step s = runCode (.cmdWord v) { s with sched := rest, hist := .hostWr .cmd v :: s.hist })
      ∧ (off = 0x4 → step s = .next { s with sched := rest, length := v, hist := .hostWr .length v :: s.hist })
      ∧ (off = 0x8 → step s = .next { s with sched := rest, hist := .hostWr .status v :: s.hist })
      ∧ (off = 0xC → step s = .next { s with sched := rest, hist := .hostWr .count v :: s.hist })

/-- R64: an access that is not a 32-bit one at 0x0, 0x4, 0x8 or 0xC is refused, and no other access is. -/
def Obligations.UndefinedHostAccessesAreRefused : Prop :=
  ∀ (s : State) (width off : Nat) (v : Word),
    (hostAccess (.read width off) s = .refused .undefinedHostAccess
        ↔ ¬ (width = 32 ∧ (off = 0x0 ∨ off = 0x4 ∨ off = 0x8 ∨ off = 0xC)))
      ∧ (hostAccess (.write width off v) s = .refused .undefinedHostAccess
        ↔ ¬ (width = 32 ∧ (off = 0x0 ∨ off = 0x4 ∨ off = 0x8 ∨ off = 0xC)))
      ∧ (width = 32 ∧ (off = 0x0 ∨ off = 0x4 ∨ off = 0x8 ∨ off = 0xC) →
          (∃ t, hostAccess (.read width off) s = .next t) ∧ ∃ t, hostAccess (.write width off v) s = .next t)

/-! ### CMD -/

/-- R276, R277, R278, with R151 and R201: an idle block starts the session of the command in one step, with LIMIT taken
from LENGTH, OUTCOME cleared and the start sequence of R251. -/
def Obligations.StartCommandsStartASession : Prop :=
  ∀ (s : State) (ckpref : BitVec 2) (use1k ctrl : Bool), s.busy = false →
    exec (.cmdReceiveArith use1k ctrl) s = .next
        { s with
          busy := true, outcome := .none, limit := s.length, role := .receiving, mode := .arith, ctrl := ctrl
          neg := true, seq := if ctrl then 0#8 else 1#8, bytes := 0#32, guard := 0, cs := .rxWait }
      ∧ exec (.cmdReceiveCrc use1k ctrl) s = .next
        { s with
          busy := true, outcome := .none, limit := s.length, role := .receiving, mode := .crc, ctrl := ctrl
          neg := true, seq := if ctrl then 0#8 else 1#8, bytes := 0#32, guard := 0, cs := .rxWait }
      ∧ exec (.cmdReceiveGmode use1k ctrl) s = .next
        { s with
          busy := true, outcome := .none, limit := s.length, role := .receiving, mode := .gmode, ctrl := ctrl
          neg := true, seq := if ctrl then 0#8 else 1#8, bytes := 0#32, guard := 0, cs := .rxWait }
      ∧ exec (.cmdTransmit ckpref use1k ctrl) s = .next
        { s with
          busy := true, outcome := .none, limit := s.length, role := .transmitting, mode := .none, ctrl := ctrl
          use1k := use1k, seq := if ctrl then 0#8 else 1#8, bytes := 0#32, eod := false, att := 0
          cs := .check (.head .txNHead) }

/-! ### Reset and termination -/

/-- R48, R330: the reset values (FRAME is unspecified, so it is not named), at power-on and after the reset input,
which performs no event. -/
def Obligations.ResetValues : Prop :=
  (∀ s : State, s = State.reset ∨ (∃ s0 rest, s0.computing = false ∧ s0.sched = .reset :: rest ∧ step s0 = .next s) →
    s.cs = .idle ∧ s.busy = false ∧ s.outcome = .none ∧ s.role = .receiving ∧ s.mode = .none ∧ s.seq = 0#8
      ∧ s.bytes = 0#32 ∧ s.length = 0#32 ∧ s.limit = 0#32 ∧ s.guard = 0 ∧ s.att = 0 ∧ s.tries = 0 ∧ s.eotn = 0
      ∧ s.nfetch = 0 ∧ s.hdr = 0#8 ∧ s.ctrl = false ∧ s.use1k = false ∧ s.neg = false ∧ s.eod = false
      ∧ s.bsize = .small ∧ s.tsize = .one)
    ∧ ∀ (s0 : State) (rest : List Turn), s0.computing = false → s0.sched = .reset :: rest →
        ∃ s, step s0 = .next s ∧ s.hist = s0.hist

/-- R302: `Terminate` writes OUTCOME, BUSY and CS and records `Finish`; nothing else. -/
def Obligations.TerminateWritesOutcomeAndBusy : Prop :=
  ∀ (s : State) (o : OutcomeCode), s.busy = true → s.cs = .finish o → s.turn = .seq →
    step s = .next
      { s with
        outcome := o, busy := false, cs := .idle, sched := s.sched.tail, hist := .finish o s.bytes :: s.hist }

/-! ### Check points -/

/-- R280: a sample of 1 at any check point ends the session USER_ABORTED with no event but the sample and `Finish`. -/
def Obligations.AbortSampleEndsTheSession : Prop :=
  ∀ (s : State) (c : CheckPoint) (rest : List Bool), s.busy = true → s.cs = .check c → s.abort = true :: rest →
    s.undisturbed →
      steps 2 s = .next
        { s with
          outcome := .userAborted, busy := false, cs := .idle, abort := rest
          hist := .finish .userAborted s.bytes :: .abortSample true :: s.hist }

/-- R281, R13: the check points stand at every loop head and around every read; a sample of 0 goes on, and a read takes
the transport's next answer with the timeout of its point. -/
def Obligations.CheckPointsAndReads : Prop :=
  ∀ s : State, s.busy = true → s.turn = .seq →
    (∀ h rest, s.cs = .check (.head h) → s.abort = false :: rest → step s = .next
        { s with
          abort := rest, sched := s.sched.tail, hist := .abortSample false :: s.hist
          cs := match h with
            | .rxHead => .rxTest | .txNHead => .txNegTest | .txSHead => .txCapTest | .txEHead => .txEotTest })
      ∧ (∀ p rest, s.cs = .check (.before p) → s.abort = false :: rest → step s = .next
        { s with
          abort := rest, sched := s.sched.tail, hist := .abortSample false :: s.hist, cs := .recv p })
      ∧ (∀ p r answers, s.cs = .recv p → s.rx = r :: answers → step s = .next
        { s with
          rx := answers, sched := s.sched.tail, cs := .check (.after p r)
          hist := .rx (match p with
            | .rxHdr => .tHdr | .rxBody _ => .tByte | .txNeg => .tTxNeg | .txRsp => .tTxRsp | .txEot => .tTxRsp
            | .rxCan => .tCan | .txNegCan => .tCan | .txRspCan => .tCan) r :: s.hist })
      ∧ (∀ p x rest, s.cs = .check (.after p x) → s.abort = false :: rest → step s = .next
        { s with
          abort := rest, sched := s.sched.tail, hist := .abortSample false :: s.hist, cs := .answer p x })

/-! ### The receiver -/

/-- R158 to R162, R204 to R206, R211, R214: every row that decodes an answer of the header wait, the negotiation, the
packet response or the EOT, each at its point. -/
def Obligations.AnswerRowEffects : Prop :=
  ∀ (s : State) (r r' : Answer),
    (s.cs = .answer .rxHdr r →
      exec .rxHdrSoh s = .next { s with hdr := 0x01#8, bsize := .small, cs := .rxBody }
        ∧ exec .rxHdrStx s = .next { s with hdr := 0x02#8, bsize := .large, cs := .rxBody }
        ∧ exec .rxHdrEot s = .next { s with cs := .ack .eot }
        ∧ exec .rxHdrCan s = .next { s with cs := .check (.before .rxCan) }
        ∧ exec (.rxHdrOther r') s = .next { s with cs := .check (.head .rxHead) })
      ∧ (s.cs = .answer .txNeg r →
      exec .txNegG s = .next { s with mode := .gmode, cs := .txBlock }
        ∧ exec .txNegC s = .next { s with mode := .crc, cs := .txBlock }
        ∧ exec .txNegNak s = .next { s with mode := .arith, cs := .txBlock }
        ∧ exec .txNegCan s = .next { s with cs := .check (.before .txNegCan) }
        ∧ exec (.txNegOther r') s = .next { s with cs := .check (.head .txNHead) })
      ∧ (s.cs = .answer .txRsp r →
      exec .txRspAck s = .next { s with cs := .txAcked }
        ∧ exec .txRspCan s = .next { s with cs := .check (.before .txRspCan) }
        ∧ exec .txRspNak s = .next { s with cs := .check (.head .txSHead) }
        ∧ exec (.txRspOther r') s = .next { s with cs := .check (.head .txSHead) })
      ∧ (s.cs = .answer .txEot r →
      exec .txEotAck s = .next { s with cs := .finish .done }
        ∧ exec (.txEotOther r') s = .next { s with cs := .check (.head .txEHead) })

/-- R86 to R88: what each answer does at each read, in the priority order of the rules. -/
def Obligations.AnswersDecide : Prop :=
  ∀ (s : State) (r : Answer), s.busy = true →
    (s.cs = .answer .rxHdr r → step s = .next
      (if r = .byte 0x01#8 then { s with hdr := 0x01#8, bsize := .small, cs := .rxBody }
      else if r = .byte 0x02#8 then { s with hdr := 0x02#8, bsize := .large, cs := .rxBody }
      else if r = .byte 0x04#8 then { s with cs := .ack .eot }
      else if r = .byte 0x18#8 then { s with cs := .check (.before .rxCan) }
      else { s with cs := .check (.head .rxHead) }))
      ∧ (s.cs = .answer .txNeg r → step s = .next
      (if r = .byte 0x47#8 then { s with mode := .gmode, cs := .txBlock }
      else if r = .byte 0x43#8 then { s with mode := .crc, cs := .txBlock }
      else if r = .byte 0x15#8 then { s with mode := .arith, cs := .txBlock }
      else if r = .byte 0x18#8 then { s with cs := .check (.before .txNegCan) }
      else { s with cs := .check (.head .txNHead) }))
      ∧ (s.cs = .answer .txRsp r → step s = .next
      (if r = .byte 0x06#8 then { s with cs := .txAcked }
      else if r = .byte 0x18#8 then { s with cs := .check (.before .txRspCan) }
      else { s with cs := .check (.head .txSHead) }))
      ∧ (s.cs = .answer .txEot r → step s = .next
      (if r = .byte 0x06#8 then { s with cs := .finish .done }
      else { s with cs := .check (.head .txEHead) }))

/-- R153 to R155: the exhaustion test of the header wait: the downgrade GMODE to CRC to ARITH while NEG is 1, the
triple CAN and SYNC_ERROR where there is none left, else the attempt, with a negotiation byte while NEG is 1. -/
def Obligations.HeaderWaitExhaustion : Prop :=
  ∀ s : State, s.busy = true →
    (s.cs = .rxWait → step s = .next { s with att := 0, cs := .check (.head .rxHead) })
      ∧ (s.cs = .rxTest →
        (s.att ≠ 16 → step s = .next { s with cs := if s.neg then .rxNeg else .rxCount })
          ∧ (s.att = 16 → s.neg = true → s.mode = .gmode →
              step s = .next { s with mode := .crc, att := 0, cs := .check (.head .rxHead) })
          ∧ (s.att = 16 → s.neg = true → s.mode = .crc →
              step s = .next { s with mode := .arith, att := 0, cs := .check (.head .rxHead) })
          ∧ (s.att = 16 → (s.neg = false ∨ (s.mode ≠ .gmode ∧ s.mode ≠ .crc)) →
              step s = .next { s with cs := .can3 0 .syncError }))
      ∧ (s.cs = .rxCount → step s = .next { s with att := s.att + 1, cs := .check (.before .rxHdr) })

/-- R90, R156, R214, R303: every row of a symbol the block sends by itself, at its point. EMIT.CAN3 performs the next of
its three `Send`s (one event a step, notes/assumptions/5.md). -/
def Obligations.EmittedSymbolRows : Prop :=
  ∀ s : State,
    (s.cs = .rxNeg → s.mode = .gmode →
        exec .emitNegG s = .next { s with hist := .tx 0x47#8 :: s.hist, cs := .rxCount })
      ∧ (s.cs = .rxNeg → s.mode = .crc →
        exec .emitNegC s = .next { s with hist := .tx 0x43#8 :: s.hist, cs := .rxCount })
      ∧ (s.cs = .rxNeg → s.mode = .arith →
        exec .emitNegNak s = .next { s with hist := .tx 0x15#8 :: s.hist, cs := .rxCount })
      ∧ (∀ site, s.cs = .ack site → exec .emitAck s = .next
        { s with
          hist := .tx 0x06#8 :: s.hist
          cs := match site with
            | .eot => .finish .done
            | .cancel => .finish .remoteCancelled
            | .duplicate => .rxWait
            | .accepted => if s.ctrl then .finish .done else .rxWait })
      ∧ (s.cs = .nak → exec .emitNak s = .next { s with hist := .tx 0x15#8 :: s.hist, cs := .rxWait })
      ∧ (∀ k o, s.cs = .can3 k o → exec .emitCan3 s = .next
        { s with hist := .tx 0x18#8 :: s.hist, cs := if k < 2 then .can3 (k + 1) o else .finish o })
      ∧ (s.cs = .txSendEot → exec .emitEot s = .next
        { s with hist := .tx 0x04#8 :: s.hist, eotn := s.eotn + 1, cs := .check (.before .txEot) })

/-- R160: EOT at the header wait, in every mode: ACK, then DONE with COUNT unchanged. -/
def Obligations.EotEndsTheReceiverDone : Prop :=
  ∀ s : State, s.busy = true → s.undisturbed → s.cs = .answer .rxHdr (.byte 0x04#8) →
    steps 3 s = .next
      { s with
        outcome := .done, busy := false, cs := .idle
        hist := .finish .done s.bytes :: .tx 0x06#8 :: s.hist }

/-- R161, R175: a CAN, then a second CAN is a remote cancel (flush, ACK, REMOTE_CANCELLED) and any other answer is
dropped and ends the attempt. -/
def Obligations.CanCanCancelsTheReceiver : Prop :=
  ∀ s : State, s.busy = true →
    (s.cs = .answer .rxHdr (.byte 0x18#8) → step s = .next { s with cs := .check (.before .rxCan) })
      ∧ (s.undisturbed → s.cs = .answer .rxCan (.byte 0x18#8) → steps 4 s = .next
          { s with
            outcome := .remoteCancelled, busy := false, cs := .idle
            hist := .finish .remoteCancelled s.bytes :: .tx 0x06#8 :: .rxFlush :: s.hist })
      ∧ ∀ r, s.cs = .answer .rxCan r → r ≠ .byte 0x18#8 → step s = .next { s with cs := .check (.head .rxHead) }

/-- R164: entering the body ends the negotiation, fixes the trailer size by MODE alone and writes FRAME[0], no other
byte. -/
def Obligations.BodyEntryEndsNegotiation : Prop :=
  ∀ s : State, s.busy = true → s.cs = .rxBody →
    ∃ t, step s = .next t
      ∧ t = { s with
          neg := false, tsize := if s.mode = .arith then .one else .two, cs := .check (.before (.rxBody 0))
          frame := t.frame }
      ∧ t.frame.read 0 = some s.hdr ∧ ∀ a, a ≠ 0 → t.frame.read a = s.frame.read a

/-- R165: body byte k goes to FRAME[1 + k], every other byte of FRAME stays, and the body is `BSIZE + TSIZE + 2` bytes
long. The length follows R165's formula and not the counts 130, 131, 1026, 1027 beside it (notes/assumptions/15.md). That
an index beyond FRAME is the fault frameIndex is the model's choice (notes/assumptions/4.md): R63 says only that none is
formed. -/
def Obligations.BodyByteIsStored : Prop :=
  ∀ (s : State) (k : Nat) (b : Byte) (r : Answer), s.cs = .answer (.rxBody k) r →
    (1 + k < 1029 →
      ∃ t, exec (.rxBodyByte b) s = .next t
        ∧ t = { s with
            frame := t.frame
            cs := if k + 1 < s.bsize.bytes + s.tsize.bytes + 2 then .check (.before (.rxBody (k + 1)))
              else .rxClassify }
        ∧ t.frame.read (1 + k) = some b ∧ ∀ a, a ≠ 1 + k → t.frame.read a = s.frame.read a)
      ∧ (1029 ≤ 1 + k → exec (.rxBodyByte b) s = .fault (.frameIndex (1 + k)))

/-- R166: a timeout inside a body is answered by NAK and a new header wait; GUARD is not changed and nothing is
flushed. -/
def Obligations.BodyTimeoutIsNaked : Prop :=
  ∀ (s : State) (k : Nat), s.busy = true → s.undisturbed → s.cs = .answer (.rxBody k) .timeout →
    steps 3 s = .next { s with att := 0, cs := .check (.head .rxHead), hist := .tx 0x15#8 :: s.hist }

/-- R167 to R170, R172, R173: the four frame rows where the receiver classifies the frame it read: an Accepted packet is
stored next, any other raises GUARD, and the one that brings GUARD to 25 ends the session instead of being answered. -/
def Obligations.FrameRowsClassify : Prop :=
  ∀ (s : State) (seq cpl sum : Byte) (crc : U16) (p : List Byte), s.cs = .rxClassify → p.length = s.bsize.bytes →
    (s.mode = .arith → s.tsize = .one →
      ∀ i, (s.bsize = .small ∧ i = .frameSohArith seq cpl p sum) ∨ (s.bsize = .large ∧ i = .frameStxArith seq cpl p sum) →
      exec i s = .next
        (if cpl = 255#8 - seq ∧ sum = sum8 p ∧ seq = s.seq then { s with cs := .rxStore }
        else { s with
          guard := s.guard + 1
          cs := if s.guard + 1 = 25 then .flush .retryExceeded
            else if cpl = 255#8 - seq ∧ sum = sum8 p ∧ seq + 1#8 = s.seq then .ack .duplicate
            else .nak }))
      ∧ (s.mode = .crc ∨ s.mode = .gmode → s.tsize = .two →
      ∀ i, (s.bsize = .small ∧ i = .frameSohCrc seq cpl p crc) ∨ (s.bsize = .large ∧ i = .frameStxCrc seq cpl p crc) →
      exec i s = .next
        (if cpl = 255#8 - seq ∧ crc = crc16 p ∧ seq = s.seq then { s with cs := .rxStore }
        else { s with
          guard := s.guard + 1
          cs := if s.guard + 1 = 25 then .flush .retryExceeded
            else if cpl = 255#8 - seq ∧ crc = crc16 p ∧ seq + 1#8 = s.seq then
              (if s.mode = .gmode then .rxWait else .ack .duplicate)
            else .nak }))

/-- R170, R171: an Accepted packet hands the first `min(BSIZE, LIMIT - BYTES)` payload bytes to the sink, then counts
them, advances SEQ and clears GUARD; the ACK comes after the store, and none in GMODE (R172). -/
def Obligations.AcceptedPacketIsDelivered : Prop :=
  ∀ (s : State) (l : List Byte), s.busy = true → s.turn = .seq → s.cs = .rxStore → s.bytes.toNat ≤ s.limit.toNat →
    s.frame.readList 3 (min s.bsize.bytes (s.limit.toNat - s.bytes.toNat)) = some l →
      step s = .next
        { s with
          bytes := s.bytes + BitVec.ofNat 32 (min s.bsize.bytes (s.limit.toNat - s.bytes.toNat))
          seq := s.seq + 1#8, guard := 0, sched := s.sched.tail, hist := .store l :: s.hist
          cs := if s.mode = .gmode then (if s.ctrl then .finish .done else .rxWait) else .ack .accepted }

/-- R174, R303: the triple CAN goes out back to back, with no read and no abort sample between, and the outcome follows;
retry-exceeded flushes first. -/
def Obligations.FatalAbortSequences : Prop :=
  ∀ (s : State) (o : OutcomeCode), s.busy = true → s.undisturbed →
    (s.cs = .can3 0 o → steps 4 s = .next
        { s with
          outcome := o, busy := false, cs := .idle
          hist := .finish o s.bytes :: .tx 0x18#8 :: .tx 0x18#8 :: .tx 0x18#8 :: s.hist })
      ∧ (s.cs = .flush .retryExceeded → steps 5 s = .next
        { s with
          outcome := .retryExceeded, busy := false, cs := .idle
          hist := .finish .retryExceeded s.bytes :: .tx 0x18#8 :: .tx 0x18#8 :: .tx 0x18#8 :: .rxFlush :: s.hist })

/-- 42_receiver.md R164 to R172 end to end: a receiver that has just read a header byte and then reads, undisturbed
and unaborted, the rest of the frame a transmitter builds with the expected sequence delivers the payload up to the
limit: BYTES, SEQ, GUARD, NEG, MODE, LIMIT, BUSY, CS and FRAME are as R164, R165 and R170 leave them. That the body is as long
as R165's formula says, and not as its counts 130, 131, 1026, 1027, is the model's reading (notes/assumptions/15.md). -/
def Obligations.ValidPacketReachesTheSink : Prop :=
  ∀ (s : State) (p : List Byte) (rest : List Answer) (samples : List Bool),
    s.busy = true → s.undisturbed → s.cs = .rxBody → s.mode ≠ .none → s.hdr = s.bsize.header →
    s.bytes.toNat ≤ s.limit.toNat → p.length = s.bsize.bytes →
    s.rx = ((validFrame s.mode s.hdr s.seq p).tail.map Answer.byte) ++ rest →
    s.abort = List.replicate (2 * (validFrame s.mode s.hdr s.seq p).tail.length) false ++ samples →
      ∃ t, steps (4 * (validFrame s.mode s.hdr s.seq p).tail.length + 3) s = .next t
        ∧ t.hist.head? = some (.store (p.take (s.limit.toNat - s.bytes.toNat)))
        ∧ t.bytes.toNat = s.bytes.toNat + min p.length (s.limit.toNat - s.bytes.toNat)
        ∧ t.seq = s.seq + 1#8 ∧ t.guard = 0 ∧ t.neg = false ∧ t.mode = s.mode ∧ t.limit = s.limit
        ∧ t.rx = rest ∧ t.abort = samples ∧ t.busy = true
        ∧ t.cs = (if s.mode = .gmode then (if s.ctrl then .finish .done else .rxWait) else .ack .accepted)
        ∧ t.frame.readList 0 (validFrame s.mode s.hdr s.seq p).length = some (validFrame s.mode s.hdr s.seq p)

/-! ### The transmitter -/

/-- R205, R211: CAN-CAN ends a transmitter session with a flush and no byte sent; after a lone CAN the loop goes on
and the other answer is dropped. -/
def Obligations.CanCanCancelsTheTransmitter : Prop :=
  ∀ (s : State) (r : Answer), s.busy = true → (s.cs = .answer .txNegCan r ∨ s.cs = .answer .txRspCan r) →
    (r = .byte 0x18#8 → s.undisturbed → steps 3 s = .next
        { s with
          outcome := .remoteCancelled, busy := false, cs := .idle
          hist := .finish .remoteCancelled s.bytes :: .rxFlush :: s.hist })
      ∧ (r ≠ .byte 0x18#8 → s.cs = .answer .txNegCan r → step s = .next { s with cs := .check (.head .txNHead) })
      ∧ (r ≠ .byte 0x18#8 → s.cs = .answer .txRspCan r → step s = .next { s with cs := .check (.head .txSHead) })

/-- R203, R206, R209, R214, R215: the three exhaustion tests of the transmitter and the entry of the EOT phase. -/
def Obligations.TransmitterExhaustion : Prop :=
  ∀ s : State, s.busy = true →
    (s.cs = .txNegTest → step s = .next
        (if s.att = 16 then { s with cs := .can3 0 .syncError }
        else { s with att := s.att + 1, cs := .check (.before .txNeg) }))
      ∧ (s.cs = .txCapTest → step s = .next
        { s with cs := if s.tries = 25 then .can3 0 .transmitError else .txSend 0 })
      ∧ (s.cs = .txEot → step s = .next { s with eotn := 0, cs := .check (.head .txEHead) })
      ∧ (s.cs = .txEotTest → step s = .next
        { s with cs := if s.eotn = 10 then .finish .noFinalAck else .txSendEot })

/-- R207, R213, up to the fetch: outside control mode nothing due or no more data goes to the EOT phase, else the
block size is 1024 only with USE1K and more than 128 bytes due. -/
def Obligations.BlockSizeChoice : Prop :=
  ∀ s : State, s.busy = true → s.cs = .txBlock → s.bytes.toNat ≤ s.limit.toNat →
    step s = .next
      (if s.ctrl = false ∧ (s.bytes = s.limit ∨ s.eod = true) then { s with cs := .txEot }
      else { s with
        bsize := if s.use1k = true ∧ 128 < s.limit.toNat - s.bytes.toNat then .large else .small
        cs := .txFetch })

/-- R207, R208, R213, R255: the fetch, the padding and the frame, all of which FRAME holds after it; an empty fetch
outside control mode builds nothing and leaves FRAME as it was. A listed answer longer than the capacity breaks the
port's contract and is refused (R284, 93_implementation_defined.md I9). -/
def Obligations.FetchBuildsThePacket : Prop :=
  ∀ (s : State) (l : List Byte) (rest : List (List Byte)), s.busy = true → s.turn = .seq → s.cs = .txFetch →
    s.bytes.toNat ≤ s.limit.toNat → s.src = l :: rest →
    let cap := min s.bsize.bytes (s.limit.toNat - s.bytes.toNat)
    (l.length ≤ cap → ¬ (s.ctrl = false ∧ l = []) →
      ∃ t, step s = .next t
        ∧ t = { s with
            sched := s.sched.tail, src := rest, nfetch := l.length, eod := s.eod || decide (l.length < cap)
            tsize := if s.mode = .arith then .one else .two, tries := 0, cs := .check (.head .txSHead)
            hist := .fetch cap l :: s.hist, frame := t.frame }
        ∧ t.frame.readList 0 (3 + s.bsize.bytes + (if s.mode = .arith then 1 else 2)) =
            some (validFrame s.mode (if s.bsize = .small then 0x01#8 else 0x02#8) s.seq
              (l ++ List.replicate (s.bsize.bytes - l.length) (if s.ctrl then 0x00#8 else 0x1A#8)))
        ∧ ∀ a, 3 + s.bsize.bytes + (if s.mode = .arith then 1 else 2) ≤ a → t.frame.read a = s.frame.read a)
      ∧ (s.ctrl = false → l = [] → step s = .next
          { s with
            sched := s.sched.tail, src := rest, nfetch := 0, eod := s.eod || decide (0 < cap), cs := .txEot
            hist := .fetch cap [] :: s.hist })
      ∧ (cap < l.length → step s = .refused .sourceOverrun)

/-- R210: the four frame rows where the transmitter sends the frame: byte n of it, and after the last byte TRIES counts
the transmission and, unless MODE is GMODE, the response is read. That a row executed at byte n sends just that byte is
the model's choice (one event a step, notes/assumptions/5.md). -/
def Obligations.FrameRowsSend : Prop :=
  ∀ (s : State) (seq cpl sum : Byte) (crc : U16) (p : List Byte) (n : Nat), s.cs = .txSend n →
    p.length = s.bsize.bytes →
    (∀ b, s.tsize = .one → ([s.bsize.header, seq, cpl] ++ p ++ [sum])[n]? = some b →
      ∀ i, (s.bsize = .small ∧ i = .frameSohArith seq cpl p sum) ∨ (s.bsize = .large ∧ i = .frameStxArith seq cpl p sum) →
      exec i s = .next
        (if n < p.length + 3 then { s with hist := .tx b :: s.hist, cs := .txSend (n + 1) }
        else { s with
          hist := .tx b :: s.hist, tries := s.tries + 1
          cs := if s.mode = .gmode then .txAcked else .check (.before .txRsp) }))
      ∧ ∀ b, s.tsize = .two →
        ([s.bsize.header, seq, cpl] ++ p ++ [crc.extractLsb' 8 8, crc.extractLsb' 0 8])[n]? = some b →
      ∀ i, (s.bsize = .small ∧ i = .frameSohCrc seq cpl p crc) ∨ (s.bsize = .large ∧ i = .frameStxCrc seq cpl p crc) →
      exec i s = .next
        (if n < p.length + 4 then { s with hist := .tx b :: s.hist, cs := .txSend (n + 1) }
        else { s with
          hist := .tx b :: s.hist, tries := s.tries + 1
          cs := if s.mode = .gmode then .txAcked else .check (.before .txRsp) })

/-- R210: undisturbed, the whole frame goes out back to back, byte for byte what FRAME holds, with no abort sample and
no read between its bytes, and FRAME stays as it is. -/
def Obligations.WholeFrameIsSentBackToBack : Prop :=
  ∀ (s : State) (f : List Byte), s.busy = true → s.undisturbed → s.cs = .txSend 0 →
    f.length = 3 + s.bsize.bytes + s.tsize.bytes → s.frame.readList 0 f.length = some f →
    f[0]? = some s.bsize.header →
      steps f.length s = .next
        { s with
          hist := (f.map Event.tx).reverse ++ s.hist, tries := s.tries + 1
          cs := if s.mode = .gmode then .txAcked else .check (.before .txRsp) }

/-- R212: an acknowledged packet advances SEQ modulo 256 and BYTES by the bytes fetched; in control mode the session
then ends DONE. -/
def Obligations.AcknowledgedPacketCounts : Prop :=
  ∀ s : State, s.busy = true → s.cs = .txAcked →
    step s = .next
      { s with
        seq := s.seq + 1#8, bytes := s.bytes + BitVec.ofNat 32 s.nfetch
        cs := if s.ctrl then .finish .done else .txBlock }

/-- R74, R216: in a transmitter session only the fetch that builds a packet changes FRAME and TSIZE, and only the choice
of the block size before it changes BSIZE, so from its assembly to its acknowledgement a packet's bytes and their number
stay. -/
def Obligations.FrameAndSizesStayUntilTheNextPacket : Prop :=
  ∀ s t : State, s.Inv → s.busy = true → s.role = .transmitting → step s = .next t → t.busy = true →
    (s.cs ≠ .txFetch → t.frame = s.frame ∧ t.tsize = s.tsize) ∧ (s.cs ≠ .txBlock → t.bsize = s.bsize)

/-! ### The whole machine -/

/-- Every step keeps the invariant, from every state that has it. -/
def Obligations.StepKeepsTheInvariant : Prop :=
  ∀ s t : State, s.Inv → step s = .next t → t.Inv

/-- The invariant holds at reset. -/
def Obligations.ResetMeetsTheInvariant : Prop := State.reset.Inv

/-- From a state with the invariant, a step that keeps the contracts of the host bus and of the source never stops:
no unwritten FRAME byte is read (R75), no index beyond FRAME is formed (R63), no instruction runs away from its
point. -/
def Obligations.StepNeverStops : Prop :=
  ∀ s : State, s.Inv → s.legalMove → ∃ t, step s = .next t

/-- R6, R24, R69: a step records at most one event, and internal computation records none. -/
def Obligations.OneEventAtATime : Prop :=
  ∀ s t : State, step s = .next t →
    (t.hist = s.hist ∨ ∃ e, t.hist = e :: s.hist) ∧ (s.computing = true → t.hist = s.hist)

/-- R24, R276, R277, R280, R287: an idle block stays idle unless the host writes a RECEIVE or TRANSMIT word to CMD; no
move but the host's and the reset input's changes anything; the result of the last session stays until such a word, an
illegal word (OUTCOME alone) or reset; and the abort input is not sampled. -/
def Obligations.OnlyAStartCommandLeavesIdle : Prop :=
  ∀ s t : State, s.Inv → s.busy = false → step s = .next t →
    (t.busy = true →
      ∃ w rest, s.sched = .host (.write 32 0x0 w) :: rest ∧ t.sched = rest ∧ w.toNat < 64
        ∧ ((w.toNat % 4 = 1 ∧ w.toNat / 4 % 4 ≠ 3) ∨ w.toNat % 4 = 2))
      ∧ ((∀ a rest, s.sched ≠ .host a :: rest) → (∀ rest, s.sched ≠ .reset :: rest) →
          t = { s with sched := s.sched.tail })
      ∧ (t.busy = false → (∀ rest, s.sched ≠ .reset :: rest) →
          t.role = s.role ∧ t.mode = s.mode ∧ t.seq = s.seq ∧ t.bytes = s.bytes
            ∧ (t.outcome = s.outcome
              ∨ (t.outcome = .badCommand ∧ ∃ w rest, s.sched = .host (.write 32 0x0 w) :: rest
                ∧ decode (.cmdWord w) = .ok (.cmdIllegal w))))
      ∧ t.abort = s.abort

/-- R22, R25, R29: while a session goes on, ROLE, CTRL, USE1K and LIMIT keep the values of its start. -/
def Obligations.SessionConstants : Prop :=
  ∀ s t : State, s.Inv → s.busy = true → step s = .next t → t.busy = true →
    t.role = s.role ∧ t.ctrl = s.ctrl ∧ t.use1k = s.use1k ∧ t.limit = s.limit ∧ t.outcome = .none

/-- R26: in a receiver session MODE only moves GMODE to CRC to ARITH, and only while NEG is 1; in a transmitter
session it is written once, from NONE. -/
def Obligations.ModeOnlyDowngrades : Prop :=
  ∀ s t : State, s.Inv → s.busy = true → step s = .next t → t.busy = true →
    t.mode = s.mode
      ∨ (s.role = .receiving ∧ s.neg = true ∧
          ((s.mode = .gmode ∧ t.mode = .crc) ∨ (s.mode = .crc ∧ t.mode = .arith)))
      ∨ (s.role = .transmitting ∧ s.mode = .none ∧ t.mode ≠ .none)

/-- R28, R27: while a session goes on, BYTES never exceeds LIMIT, only increases, and advances with SEQ, which moves
by one, at a delivered or an acknowledged packet. -/
def Obligations.BytesAndSeqAdvanceTogether : Prop :=
  ∀ s t : State, s.Inv → s.busy = true → step s = .next t → t.busy = true →
    t.bytes.toNat ≤ t.limit.toNat ∧ s.bytes.toNat ≤ t.bytes.toNat
      ∧ ((t.seq = s.seq ∧ t.bytes = s.bytes)
        ∨ (t.seq = s.seq + 1#8 ∧ ((s.cs = .rxStore ∧ s.role = .receiving) ∨ (s.cs = .txAcked ∧ s.role = .transmitting))
            ∧ t.bytes.toNat ≤ s.bytes.toNat + s.bsize.bytes))

/-- R30, R168, R169, R173: GUARD gains 1 exactly at a classification that does not lead to the store, the increment that
reaches 25 takes the session to RETRY_EXCEEDED, and the store of an Accepted packet clears it. -/
def Obligations.GuardCountsBadPackets : Prop :=
  ∀ s t : State, s.Inv → s.busy = true → step s = .next t → t.busy = true →
    (t.guard = s.guard ∧ (s.cs = .rxStore → t.cs = .rxStore) ∧ (s.cs = .rxClassify → t.cs = .rxStore))
      ∨ (s.cs = .rxClassify ∧ t.cs ≠ .rxStore ∧ t.guard = s.guard + 1
          ∧ (t.guard = 25 ↔ t.cs = .flush .retryExceeded))
      ∨ (s.cs = .rxStore ∧ t.cs ≠ .rxStore ∧ t.guard = 0)

/-- R283, R284: `Store` only by a receiver, at an Accepted packet, of at most 1024 bytes; `Fetch` only by a
transmitter, when a packet is built, with a capacity of at most 1024 and at most the bytes still due, which the answer
fits. -/
def Obligations.StoreAndFetchWhereAllowed : Prop :=
  ∀ s t : State, s.Inv → step s = .next t →
    (∀ l, t.hist = .store l :: s.hist →
        s.busy = true ∧ s.role = .receiving ∧ s.cs = .rxStore ∧ l.length ≤ 1024
          ∧ l.length ≤ s.limit.toNat - s.bytes.toNat)
      ∧ ∀ c l, t.hist = .fetch c l :: s.hist →
        s.busy = true ∧ s.role = .transmitting ∧ s.cs = .txFetch ∧ c ≤ 1024
          ∧ c ≤ s.limit.toNat - s.bytes.toNat ∧ l.length ≤ c

/-- R90, R172: the block sends no other byte, and each only in its context. -/
def Obligations.SentBytesByContext : Prop :=
  ∀ (s t : State) (b : Byte), s.Inv → step s = .next t → t.hist = .tx b :: s.hist →
    s.busy = true
      ∧ ((s.role = .receiving ∧ s.neg = true ∧ s.cs = .rxNeg
            ∧ ((s.mode = .gmode ∧ b = 0x47#8) ∨ (s.mode = .crc ∧ b = 0x43#8) ∨ (s.mode = .arith ∧ b = 0x15#8)))
        ∨ (s.role = .receiving ∧ b = 0x06#8
            ∧ (s.cs = .ack .eot ∨ s.cs = .ack .cancel
              ∨ ((s.cs = .ack .accepted ∨ s.cs = .ack .duplicate) ∧ s.mode ≠ .gmode)))
        ∨ (s.role = .receiving ∧ s.cs = .nak ∧ b = 0x15#8)
        ∨ ((∃ k o, s.cs = .can3 k o ∧ k < 3
              ∧ (o = .syncError ∨ (o = .retryExceeded ∧ s.role = .receiving)
                ∨ (o = .transmitError ∧ s.role = .transmitting))) ∧ b = 0x18#8)
        ∨ (s.role = .transmitting ∧ (∃ i, s.cs = .txSend i ∧ s.frame.read i = some b))
        ∨ (s.role = .transmitting ∧ s.ctrl = false ∧ s.cs = .txSendEot ∧ b = 0x04#8))

/-- R300, R276, R277: a session that ends by itself ends with an outcome of its role, recorded with COUNT; the only
other end is the reset input, which records none (R331). -/
def Obligations.SessionOutcomesByRole : Prop :=
  ∀ s t : State, s.Inv → s.busy = true → step s = .next t → t.busy = false →
    (t.outcome.endsSession s.role = true ∧ t.hist = .finish t.outcome s.bytes :: s.hist ∧ t.bytes = s.bytes
        ∧ t.seq = s.seq ∧ t.role = s.role ∧ t.mode = s.mode)
      ∨ (∃ rest, s.sched = .reset :: rest) ∧ t.outcome = .none ∧ t.hist = s.hist

/-- R22, R42, R273, R279: nothing the host does on its bus changes a running session: LENGTH, the schedule and the
history (notes/assumptions/13.md) are all that a host access can move, and every command, whatever its word, changes
nothing. -/
def Obligations.HostCannotDisturbASession : Prop :=
  (∀ (s t : State) (a : HostAccess), s.busy = true → s.computing = false → s.turn = .host a → step s = .next t →
    ∃ e v, t = { s with length := v, sched := s.sched.tail, hist := e :: s.hist }
      ∧ (v = s.length ∨ a = .write 32 0x4 v))
    ∧ ∀ (s : State) (w : Word), s.busy = true →
        hostAccess (.write 32 0x0 w) s = .next { s with hist := .hostWr .cmd w :: s.hist }
          ∧ ∀ i, decode (.cmdWord w) = .ok i → exec i s = .next s

/-- R24, R72: a step runs the instruction that is decoded at the point where CS stands: an answer's row, a sent
symbol's row, the row of the frame in FRAME, or the row of the word written to CMD. At an event point the schedule's
move is consumed (`popTurn`). That a CMD write is recorded as HostWr (notes/assumptions/13.md), and that a FRAME row is run
at every byte of the sending and EMIT.CAN3 at each of its three (notes/assumptions/5.md), are the model's choices. -/
def Obligations.StepRunsTheDecodedInstruction : Prop :=
  ∀ (s : State) (i : Instr),
    (s.busy = true →
      (∀ r, s.cs = .answer .rxHdr r → decode (.answer .hdr r) = .ok i → step s = exec i s)
        ∧ (∀ k b, s.cs = .answer (.rxBody k) (.byte b) → decode (.answer .body (.byte b)) = .ok i →
            step s = exec i s)
        ∧ (∀ r, s.cs = .answer .txNeg r → decode (.answer .neg r) = .ok i → step s = exec i s)
        ∧ (∀ r, s.cs = .answer .txRsp r → decode (.answer .rsp r) = .ok i → step s = exec i s)
        ∧ (∀ r, s.cs = .answer .txEot r → decode (.answer .eot r) = .ok i → step s = exec i s)
        ∧ (∀ f, s.cs = .rxClassify → s.frame.readList 0 (3 + s.bsize.bytes + s.tsize.bytes) = some f →
            decode (.frame f) = .ok i → step s = exec i s)
        ∧ (s.turn = .seq →
            (∀ b, s.cs = .rxNeg → negByte s.mode = some b → decode (.sent .neg [b]) = .ok i →
                step s = exec i (popTurn s))
              ∧ (∀ site, s.cs = .ack site → decode (.sent .ack [0x06#8]) = .ok i → step s = exec i (popTurn s))
              ∧ (s.cs = .nak → decode (.sent .nak [0x15#8]) = .ok i → step s = exec i (popTurn s))
              ∧ (∀ k o, s.cs = .can3 k o → decode (.sent .can3 [0x18#8, 0x18#8, 0x18#8]) = .ok i →
                  step s = exec i (popTurn s))
              ∧ (s.cs = .txSendEot → decode (.sent .eot [0x04#8]) = .ok i → step s = exec i (popTurn s))
              ∧ ∀ n f, s.cs = .txSend n → s.frame.readList 0 (3 + s.bsize.bytes + s.tsize.bytes) = some f →
                  decode (.frame f) = .ok i → step s = exec i (popTurn s)))
      ∧ ∀ w rest, s.computing = false → s.sched = .host (.write 32 0x0 w) :: rest → decode (.cmdWord w) = .ok i →
          step s = exec i { s with sched := rest, hist := .hostWr .cmd w :: s.hist }

/-- The model's placing of one instruction (notes/assumptions/6.md): whatever row a table word decodes to, the very
next step goes on and is that row's effect on `s` brought to the row's point: the state with the word's write to CMD recorded
(made idle where it stood in the middle of internal computation), with CS at the decode of the answer, at the first of the
three CANs, or at byte 0 of the frame, which FRAME, BSIZE and TSIZE then hold. Nothing else of `s` differs. -/
def Obligations.PlacedInstructionRunsNext : Prop :=
  ∀ (s : State) (nbits w : Nat) (i : Instr), decodeTableWord nbits w = some i →
    (∃ t, step (s.withFetchWord nbits w) = .next t)
      ∧ match tableCode nbits w with
        | .cmdWord v => step (s.withFetchWord nbits w) = exec i
            { s with
              busy := s.busy && !s.computing, cs := if s.computing then .idle else s.cs
              hung := s.hung && !s.computing, hist := .hostWr .cmd v :: s.hist }
        | .answer p r => step (s.withFetchWord nbits w) = exec i
            { s with
              busy := true, hung := false
              cs := .answer (match p with
                | .hdr => .rxHdr | .body => .rxBody 0 | .neg => .txNeg | .rsp => .txRsp | .eot => .txEot) r }
        | .sent p bytes => p = .can3 ∧ bytes = [0x18#8, 0x18#8, 0x18#8] ∧ step (s.withFetchWord nbits w) = exec i
            { s with busy := true, hung := false, cs := .can3 0 .syncError }
        | .frame bytes => step (s.withFetchWord nbits w) = exec i
            { s with
              busy := true, hung := false, cs := .txSend 0, frame := s.frame.writeList 0 bytes
              bsize := if bytes.head? = some 0x02#8 then .large else .small
              tsize := if bytes.length = 132 ∨ bytes.length = 1028 then .one else .two }

/-- The model's choice (notes/assumptions/7.md): a row of the listings executed where CS is not at its point is
refused by name. No step does so (StepNeverStops). -/
def Obligations.RowsStopAwayFromTheirPoint : Prop :=
  ∀ (s : State) (r : Answer) (b : Byte),
    ((∀ x, s.cs ≠ .answer .rxHdr x) →
      ∀ i ∈ [Instr.rxHdrSoh, .rxHdrStx, .rxHdrEot, .rxHdrCan, .rxHdrOther r], exec i s = .refused .notAtItsPoint)
      ∧ ((∀ k x, s.cs ≠ .answer (.rxBody k) x) → exec (.rxBodyByte b) s = .refused .notAtItsPoint)
      ∧ ((∀ x, s.cs ≠ .answer .txNeg x) →
        ∀ i ∈ [Instr.txNegG, .txNegC, .txNegNak, .txNegCan, .txNegOther r], exec i s = .refused .notAtItsPoint)
      ∧ ((∀ x, s.cs ≠ .answer .txRsp x) →
        ∀ i ∈ [Instr.txRspAck, .txRspCan, .txRspNak, .txRspOther r], exec i s = .refused .notAtItsPoint)
      ∧ ((∀ x, s.cs ≠ .answer .txEot x) →
        ∀ i ∈ [Instr.txEotAck, .txEotOther r], exec i s = .refused .notAtItsPoint)
      ∧ ((s.cs ≠ .rxNeg ∨ s.mode ≠ .gmode) → exec .emitNegG s = .refused .notAtItsPoint)
      ∧ ((s.cs ≠ .rxNeg ∨ s.mode ≠ .crc) → exec .emitNegC s = .refused .notAtItsPoint)
      ∧ ((s.cs ≠ .rxNeg ∨ s.mode ≠ .arith) → exec .emitNegNak s = .refused .notAtItsPoint)
      ∧ ((∀ x, s.cs ≠ .ack x) → exec .emitAck s = .refused .notAtItsPoint)
      ∧ (s.cs ≠ .nak → exec .emitNak s = .refused .notAtItsPoint)
      ∧ ((∀ k o, s.cs ≠ .can3 k o) → exec .emitCan3 s = .refused .notAtItsPoint)
      ∧ (s.cs ≠ .txSendEot → exec .emitEot s = .refused .notAtItsPoint)
      ∧ ((s.cs ≠ .rxClassify ∧ ∀ n, s.cs ≠ .txSend n) →
        ∀ q c p x y, ∀ i ∈ [Instr.frameSohArith q c p x, .frameSohCrc q c p y, .frameStxArith q c p x,
          .frameStxCrc q c p y], exec i s = .refused .notAtItsPoint)

/-! ### Boundedness -/

/-- R153, R177: with any answers, any abort samples and no host access, a header wait ends in a packet header or in
the end of the session, and a body in a classification, in the NAK of its timeout or in the end of the session. -/
def Obligations.ReceiverWaitsEnd : Prop :=
  ∀ s : State, s.Inv → s.busy = true → s.undisturbed →
    (s.cs = .rxWait →
      ∃ n t, n ≤ 700 ∧ steps n s = .next t
        ∧ ((t.busy = true ∧ t.cs = .rxBody ∧ t.guard = s.guard ∧ t.seq = s.seq ∧ t.bytes = s.bytes)
          ∨ (t.busy = false ∧ t.outcome ≠ .none)))
      ∧ (s.cs = .rxBody →
      ∃ n t, n ≤ 4200 ∧ steps n s = .next t
        ∧ ((t.busy = true ∧ (t.cs = .rxClassify ∨ t.cs = .nak) ∧ t.guard = s.guard ∧ t.seq = s.seq
              ∧ t.bytes = s.bytes)
          ∨ (t.busy = false ∧ t.outcome = .userAborted)))

/-- 60_exceptions.md R315, the transmitter's half: with any answers and any abort samples, a transmitter that is left
alone reaches the acknowledgement of a packet or the end of its session within a fixed number of steps, unless its
source overruns the capacity (R284). -/
def Obligations.TransmitterAlwaysGetsOn : Prop :=
  ∀ s : State, s.Inv → s.busy = true → s.role = .transmitting → s.undisturbed →
    ∃ n, n ≤ 30000
      ∧ ((∃ t, steps n s = .next t ∧ ((t.busy = true ∧ t.cs = .txAcked) ∨ (t.busy = false ∧ t.outcome ≠ .none)))
        ∨ steps n s = .refused .sourceOverrun)

/-- What the receiver listing (R152, normative) gives against the first sentence of R315 (notes/assumptions/12.md): a
receiver past its first header (NEG 0) whose peer sends a header and then lets the body time out, n times over, answers
each with NAK and stands at RX_WAIT again, for every n, with GUARD, SEQ and BYTES as they were and no packet read,
classified or stored between. -/
def Obligations.BodyTimeoutsNeverEndTheSession : Prop :=
  ∀ (n : Nat) (s : State) (answers : List Answer) (samples : List Bool),
    s.busy = true → s.undisturbed → s.cs = .rxWait → s.neg = false →
    s.rx = (List.replicate n [Answer.byte 0x01#8, .timeout]).flatten ++ answers →
    s.abort = List.replicate (5 * n) false ++ samples →
      ∃ t, steps (14 * n) s = .next t ∧ t.busy = true ∧ t.cs = .rxWait ∧ t.rx = answers ∧ t.abort = samples
        ∧ t.guard = s.guard ∧ t.seq = s.seq ∧ t.bytes = s.bytes ∧ t.mode = s.mode ∧ t.neg = false
        ∧ t.hist = (List.replicate n
            [Event.tx 0x15#8, .abortSample false, .rx .tByte .timeout, .abortSample false, .abortSample false,
              .rx .tHdr (.byte 0x01#8), .abortSample false, .abortSample false]).flatten ++ s.hist

/-- R337, 93_implementation_defined.md I15: a port keeps the block waiting only at a `Recv`, a `Send`, a `Store` or a
`Fetch`, and changes nothing meanwhile; with a transaction that never completes the block waits for ever, whatever the host
does, and only reset ends the session. How the schedule lists it is the model's choice (notes/assumptions/2.md). -/
def Obligations.OnlyAnOutstandingTransactionWaits : Prop :=
  (∀ s : State, s.turn = .wait ∨ s.turn = .hang →
    s.busy = true
      ∧ ((∃ p, s.cs = .recv p) ∨ s.cs = .rxNeg ∨ (∃ site, s.cs = .ack site) ∨ s.cs = .nak ∨ (∃ k o, s.cs = .can3 k o)
        ∨ (∃ i, s.cs = .txSend i) ∨ s.cs = .txSendEot ∨ s.cs = .rxStore ∨ s.cs = .txFetch)
      ∧ (s.turn = .wait → step s = .next { s with sched := s.sched.tail })
      ∧ (s.turn = .hang → step s = .next { s with sched := s.sched.tail, hung := true }))
    ∧ (∀ s t : State, s.Inv → s.hung = true → step s = .next t →
        ((∃ rest, s.sched = .reset :: rest) ∧ t.busy = false ∧ t.hung = false ∧ t.hist = s.hist)
          ∨ (t = { s with length := t.length, sched := s.sched.tail, hist := t.hist }
            ∧ ((t.length = s.length ∧ t.hist = s.hist) ∨ ∃ a rest, s.sched = .host a :: rest)))
    ∧ ∀ (s : State) (n : Nat), s.Inv → s.hung = true → s.sched = [] → steps n s = .next s
end

