-- ==== Sys2Proof/Laws/State.lean ====
section
/-! SUPPORT. One lemma per field of `State` and per named update, true by rfl, and the same for what the operations
read of the state, so that no later proof unfolds a record update. -/

namespace Sys2Proof.Machine

/-! ### `goto` -/

@[simp] theorem State.goto_busy (s : State) (c : Cs) : (s.goto c).busy = s.busy := rfl
@[simp] theorem State.goto_outcome (s : State) (c : Cs) : (s.goto c).outcome = s.outcome := rfl
@[simp] theorem State.goto_length (s : State) (c : Cs) : (s.goto c).length = s.length := rfl
@[simp] theorem State.goto_role (s : State) (c : Cs) : (s.goto c).role = s.role := rfl
@[simp] theorem State.goto_mode (s : State) (c : Cs) : (s.goto c).mode = s.mode := rfl
@[simp] theorem State.goto_ctrl (s : State) (c : Cs) : (s.goto c).ctrl = s.ctrl := rfl
@[simp] theorem State.goto_use1k (s : State) (c : Cs) : (s.goto c).use1k = s.use1k := rfl
@[simp] theorem State.goto_seq (s : State) (c : Cs) : (s.goto c).seq = s.seq := rfl
@[simp] theorem State.goto_bsize (s : State) (c : Cs) : (s.goto c).bsize = s.bsize := rfl
@[simp] theorem State.goto_tsize (s : State) (c : Cs) : (s.goto c).tsize = s.tsize := rfl
@[simp] theorem State.goto_bytes (s : State) (c : Cs) : (s.goto c).bytes = s.bytes := rfl
@[simp] theorem State.goto_limit (s : State) (c : Cs) : (s.goto c).limit = s.limit := rfl
@[simp] theorem State.goto_guard (s : State) (c : Cs) : (s.goto c).guard = s.guard := rfl
@[simp] theorem State.goto_att (s : State) (c : Cs) : (s.goto c).att = s.att := rfl
@[simp] theorem State.goto_neg (s : State) (c : Cs) : (s.goto c).neg = s.neg := rfl
@[simp] theorem State.goto_tries (s : State) (c : Cs) : (s.goto c).tries = s.tries := rfl
@[simp] theorem State.goto_eotn (s : State) (c : Cs) : (s.goto c).eotn = s.eotn := rfl
@[simp] theorem State.goto_eod (s : State) (c : Cs) : (s.goto c).eod = s.eod := rfl
@[simp] theorem State.goto_nfetch (s : State) (c : Cs) : (s.goto c).nfetch = s.nfetch := rfl
@[simp] theorem State.goto_hdr (s : State) (c : Cs) : (s.goto c).hdr = s.hdr := rfl
@[simp] theorem State.goto_cs (s : State) (c : Cs) : (s.goto c).cs = c := rfl
@[simp] theorem State.goto_frame (s : State) (c : Cs) : (s.goto c).frame = s.frame := rfl
@[simp] theorem State.goto_sched (s : State) (c : Cs) : (s.goto c).sched = s.sched := rfl
@[simp] theorem State.goto_hung (s : State) (c : Cs) : (s.goto c).hung = s.hung := rfl
@[simp] theorem State.goto_rx (s : State) (c : Cs) : (s.goto c).rx = s.rx := rfl
@[simp] theorem State.goto_src (s : State) (c : Cs) : (s.goto c).src = s.src := rfl
@[simp] theorem State.goto_abort (s : State) (c : Cs) : (s.goto c).abort = s.abort := rfl
@[simp] theorem State.goto_draws (s : State) (c : Cs) : (s.goto c).draws = s.draws := rfl
@[simp] theorem State.goto_hist (s : State) (c : Cs) : (s.goto c).hist = s.hist := rfl

/-! ### `record` -/

@[simp] theorem State.record_busy (s : State) (e : Event) : (s.record e).busy = s.busy := rfl
@[simp] theorem State.record_outcome (s : State) (e : Event) : (s.record e).outcome = s.outcome := rfl
@[simp] theorem State.record_length (s : State) (e : Event) : (s.record e).length = s.length := rfl
@[simp] theorem State.record_role (s : State) (e : Event) : (s.record e).role = s.role := rfl
@[simp] theorem State.record_mode (s : State) (e : Event) : (s.record e).mode = s.mode := rfl
@[simp] theorem State.record_ctrl (s : State) (e : Event) : (s.record e).ctrl = s.ctrl := rfl
@[simp] theorem State.record_use1k (s : State) (e : Event) : (s.record e).use1k = s.use1k := rfl
@[simp] theorem State.record_seq (s : State) (e : Event) : (s.record e).seq = s.seq := rfl
@[simp] theorem State.record_bsize (s : State) (e : Event) : (s.record e).bsize = s.bsize := rfl
@[simp] theorem State.record_tsize (s : State) (e : Event) : (s.record e).tsize = s.tsize := rfl
@[simp] theorem State.record_bytes (s : State) (e : Event) : (s.record e).bytes = s.bytes := rfl
@[simp] theorem State.record_limit (s : State) (e : Event) : (s.record e).limit = s.limit := rfl
@[simp] theorem State.record_guard (s : State) (e : Event) : (s.record e).guard = s.guard := rfl
@[simp] theorem State.record_att (s : State) (e : Event) : (s.record e).att = s.att := rfl
@[simp] theorem State.record_neg (s : State) (e : Event) : (s.record e).neg = s.neg := rfl
@[simp] theorem State.record_tries (s : State) (e : Event) : (s.record e).tries = s.tries := rfl
@[simp] theorem State.record_eotn (s : State) (e : Event) : (s.record e).eotn = s.eotn := rfl
@[simp] theorem State.record_eod (s : State) (e : Event) : (s.record e).eod = s.eod := rfl
@[simp] theorem State.record_nfetch (s : State) (e : Event) : (s.record e).nfetch = s.nfetch := rfl
@[simp] theorem State.record_hdr (s : State) (e : Event) : (s.record e).hdr = s.hdr := rfl
@[simp] theorem State.record_cs (s : State) (e : Event) : (s.record e).cs = s.cs := rfl
@[simp] theorem State.record_frame (s : State) (e : Event) : (s.record e).frame = s.frame := rfl
@[simp] theorem State.record_sched (s : State) (e : Event) : (s.record e).sched = s.sched := rfl
@[simp] theorem State.record_hung (s : State) (e : Event) : (s.record e).hung = s.hung := rfl
@[simp] theorem State.record_rx (s : State) (e : Event) : (s.record e).rx = s.rx := rfl
@[simp] theorem State.record_src (s : State) (e : Event) : (s.record e).src = s.src := rfl
@[simp] theorem State.record_abort (s : State) (e : Event) : (s.record e).abort = s.abort := rfl
@[simp] theorem State.record_draws (s : State) (e : Event) : (s.record e).draws = s.draws := rfl
@[simp] theorem State.record_hist (s : State) (e : Event) : (s.record e).hist = e :: s.hist := rfl

/-! ### `popTurn` -/

@[simp] theorem popTurn_busy (s : State) : (popTurn s).busy = s.busy := rfl
@[simp] theorem popTurn_outcome (s : State) : (popTurn s).outcome = s.outcome := rfl
@[simp] theorem popTurn_length (s : State) : (popTurn s).length = s.length := rfl
@[simp] theorem popTurn_role (s : State) : (popTurn s).role = s.role := rfl
@[simp] theorem popTurn_mode (s : State) : (popTurn s).mode = s.mode := rfl
@[simp] theorem popTurn_ctrl (s : State) : (popTurn s).ctrl = s.ctrl := rfl
@[simp] theorem popTurn_use1k (s : State) : (popTurn s).use1k = s.use1k := rfl
@[simp] theorem popTurn_seq (s : State) : (popTurn s).seq = s.seq := rfl
@[simp] theorem popTurn_bsize (s : State) : (popTurn s).bsize = s.bsize := rfl
@[simp] theorem popTurn_tsize (s : State) : (popTurn s).tsize = s.tsize := rfl
@[simp] theorem popTurn_bytes (s : State) : (popTurn s).bytes = s.bytes := rfl
@[simp] theorem popTurn_limit (s : State) : (popTurn s).limit = s.limit := rfl
@[simp] theorem popTurn_guard (s : State) : (popTurn s).guard = s.guard := rfl
@[simp] theorem popTurn_att (s : State) : (popTurn s).att = s.att := rfl
@[simp] theorem popTurn_neg (s : State) : (popTurn s).neg = s.neg := rfl
@[simp] theorem popTurn_tries (s : State) : (popTurn s).tries = s.tries := rfl
@[simp] theorem popTurn_eotn (s : State) : (popTurn s).eotn = s.eotn := rfl
@[simp] theorem popTurn_eod (s : State) : (popTurn s).eod = s.eod := rfl
@[simp] theorem popTurn_nfetch (s : State) : (popTurn s).nfetch = s.nfetch := rfl
@[simp] theorem popTurn_hdr (s : State) : (popTurn s).hdr = s.hdr := rfl
@[simp] theorem popTurn_cs (s : State) : (popTurn s).cs = s.cs := rfl
@[simp] theorem popTurn_frame (s : State) : (popTurn s).frame = s.frame := rfl
@[simp] theorem popTurn_sched (s : State) : (popTurn s).sched = s.sched.tail := rfl
@[simp] theorem popTurn_hung (s : State) : (popTurn s).hung = s.hung := rfl
@[simp] theorem popTurn_rx (s : State) : (popTurn s).rx = s.rx := rfl
@[simp] theorem popTurn_src (s : State) : (popTurn s).src = s.src := rfl
@[simp] theorem popTurn_abort (s : State) : (popTurn s).abort = s.abort := rfl
@[simp] theorem popTurn_draws (s : State) : (popTurn s).draws = s.draws := rfl
@[simp] theorem popTurn_hist (s : State) : (popTurn s).hist = s.hist := rfl

/-! ### `sessionStart` -/

@[simp] theorem sessionStart_busy (s : State) : (sessionStart s).busy = true := rfl
@[simp] theorem sessionStart_outcome (s : State) : (sessionStart s).outcome = .none := rfl
@[simp] theorem sessionStart_length (s : State) : (sessionStart s).length = s.length := rfl
@[simp] theorem sessionStart_role (s : State) : (sessionStart s).role = s.role := rfl
@[simp] theorem sessionStart_mode (s : State) : (sessionStart s).mode = s.mode := rfl
@[simp] theorem sessionStart_ctrl (s : State) : (sessionStart s).ctrl = s.ctrl := rfl
@[simp] theorem sessionStart_use1k (s : State) : (sessionStart s).use1k = s.use1k := rfl
@[simp] theorem sessionStart_seq (s : State) : (sessionStart s).seq = s.seq := rfl
@[simp] theorem sessionStart_bsize (s : State) : (sessionStart s).bsize = s.bsize := rfl
@[simp] theorem sessionStart_tsize (s : State) : (sessionStart s).tsize = s.tsize := rfl
@[simp] theorem sessionStart_bytes (s : State) : (sessionStart s).bytes = s.bytes := rfl
@[simp] theorem sessionStart_limit (s : State) : (sessionStart s).limit = s.length := rfl
@[simp] theorem sessionStart_guard (s : State) : (sessionStart s).guard = s.guard := rfl
@[simp] theorem sessionStart_att (s : State) : (sessionStart s).att = s.att := rfl
@[simp] theorem sessionStart_neg (s : State) : (sessionStart s).neg = s.neg := rfl
@[simp] theorem sessionStart_tries (s : State) : (sessionStart s).tries = s.tries := rfl
@[simp] theorem sessionStart_eotn (s : State) : (sessionStart s).eotn = s.eotn := rfl
@[simp] theorem sessionStart_eod (s : State) : (sessionStart s).eod = s.eod := rfl
@[simp] theorem sessionStart_nfetch (s : State) : (sessionStart s).nfetch = s.nfetch := rfl
@[simp] theorem sessionStart_hdr (s : State) : (sessionStart s).hdr = s.hdr := rfl
@[simp] theorem sessionStart_cs (s : State) : (sessionStart s).cs = s.cs := rfl
@[simp] theorem sessionStart_frame (s : State) : (sessionStart s).frame = s.frame := rfl
@[simp] theorem sessionStart_sched (s : State) : (sessionStart s).sched = s.sched := rfl
@[simp] theorem sessionStart_hung (s : State) : (sessionStart s).hung = s.hung := rfl
@[simp] theorem sessionStart_rx (s : State) : (sessionStart s).rx = s.rx := rfl
@[simp] theorem sessionStart_src (s : State) : (sessionStart s).src = s.src := rfl
@[simp] theorem sessionStart_abort (s : State) : (sessionStart s).abort = s.abort := rfl
@[simp] theorem sessionStart_draws (s : State) : (sessionStart s).draws = s.draws := rfl
@[simp] theorem sessionStart_hist (s : State) : (sessionStart s).hist = s.hist := rfl

/-! ### `terminate` -/

@[simp] theorem terminate_busy (s : State) (o : OutcomeCode) : (terminate o s).busy = false := rfl
@[simp] theorem terminate_outcome (s : State) (o : OutcomeCode) : (terminate o s).outcome = o := rfl
@[simp] theorem terminate_length (s : State) (o : OutcomeCode) : (terminate o s).length = s.length := rfl
@[simp] theorem terminate_role (s : State) (o : OutcomeCode) : (terminate o s).role = s.role := rfl
@[simp] theorem terminate_mode (s : State) (o : OutcomeCode) : (terminate o s).mode = s.mode := rfl
@[simp] theorem terminate_ctrl (s : State) (o : OutcomeCode) : (terminate o s).ctrl = s.ctrl := rfl
@[simp] theorem terminate_use1k (s : State) (o : OutcomeCode) : (terminate o s).use1k = s.use1k := rfl
@[simp] theorem terminate_seq (s : State) (o : OutcomeCode) : (terminate o s).seq = s.seq := rfl
@[simp] theorem terminate_bsize (s : State) (o : OutcomeCode) : (terminate o s).bsize = s.bsize := rfl
@[simp] theorem terminate_tsize (s : State) (o : OutcomeCode) : (terminate o s).tsize = s.tsize := rfl
@[simp] theorem terminate_bytes (s : State) (o : OutcomeCode) : (terminate o s).bytes = s.bytes := rfl
@[simp] theorem terminate_limit (s : State) (o : OutcomeCode) : (terminate o s).limit = s.limit := rfl
@[simp] theorem terminate_guard (s : State) (o : OutcomeCode) : (terminate o s).guard = s.guard := rfl
@[simp] theorem terminate_att (s : State) (o : OutcomeCode) : (terminate o s).att = s.att := rfl
@[simp] theorem terminate_neg (s : State) (o : OutcomeCode) : (terminate o s).neg = s.neg := rfl
@[simp] theorem terminate_tries (s : State) (o : OutcomeCode) : (terminate o s).tries = s.tries := rfl
@[simp] theorem terminate_eotn (s : State) (o : OutcomeCode) : (terminate o s).eotn = s.eotn := rfl
@[simp] theorem terminate_eod (s : State) (o : OutcomeCode) : (terminate o s).eod = s.eod := rfl
@[simp] theorem terminate_nfetch (s : State) (o : OutcomeCode) : (terminate o s).nfetch = s.nfetch := rfl
@[simp] theorem terminate_hdr (s : State) (o : OutcomeCode) : (terminate o s).hdr = s.hdr := rfl
@[simp] theorem terminate_cs (s : State) (o : OutcomeCode) : (terminate o s).cs = .idle := rfl
@[simp] theorem terminate_frame (s : State) (o : OutcomeCode) : (terminate o s).frame = s.frame := rfl
@[simp] theorem terminate_sched (s : State) (o : OutcomeCode) : (terminate o s).sched = s.sched := rfl
@[simp] theorem terminate_hung (s : State) (o : OutcomeCode) : (terminate o s).hung = s.hung := rfl
@[simp] theorem terminate_rx (s : State) (o : OutcomeCode) : (terminate o s).rx = s.rx := rfl
@[simp] theorem terminate_src (s : State) (o : OutcomeCode) : (terminate o s).src = s.src := rfl
@[simp] theorem terminate_abort (s : State) (o : OutcomeCode) : (terminate o s).abort = s.abort := rfl
@[simp] theorem terminate_draws (s : State) (o : OutcomeCode) : (terminate o s).draws = s.draws := rfl
@[simp] theorem terminate_hist (s : State) (o : OutcomeCode) : (terminate o s).hist = .finish o s.bytes :: s.hist := rfl

/-! ### `hwReset` -/

@[simp] theorem hwReset_busy (s : State) : (hwReset s).busy = State.reset.busy := rfl
@[simp] theorem hwReset_outcome (s : State) : (hwReset s).outcome = State.reset.outcome := rfl
@[simp] theorem hwReset_length (s : State) : (hwReset s).length = State.reset.length := rfl
@[simp] theorem hwReset_role (s : State) : (hwReset s).role = State.reset.role := rfl
@[simp] theorem hwReset_mode (s : State) : (hwReset s).mode = State.reset.mode := rfl
@[simp] theorem hwReset_ctrl (s : State) : (hwReset s).ctrl = State.reset.ctrl := rfl
@[simp] theorem hwReset_use1k (s : State) : (hwReset s).use1k = State.reset.use1k := rfl
@[simp] theorem hwReset_seq (s : State) : (hwReset s).seq = State.reset.seq := rfl
@[simp] theorem hwReset_bsize (s : State) : (hwReset s).bsize = State.reset.bsize := rfl
@[simp] theorem hwReset_tsize (s : State) : (hwReset s).tsize = State.reset.tsize := rfl
@[simp] theorem hwReset_bytes (s : State) : (hwReset s).bytes = State.reset.bytes := rfl
@[simp] theorem hwReset_limit (s : State) : (hwReset s).limit = State.reset.limit := rfl
@[simp] theorem hwReset_guard (s : State) : (hwReset s).guard = State.reset.guard := rfl
@[simp] theorem hwReset_att (s : State) : (hwReset s).att = State.reset.att := rfl
@[simp] theorem hwReset_neg (s : State) : (hwReset s).neg = State.reset.neg := rfl
@[simp] theorem hwReset_tries (s : State) : (hwReset s).tries = State.reset.tries := rfl
@[simp] theorem hwReset_eotn (s : State) : (hwReset s).eotn = State.reset.eotn := rfl
@[simp] theorem hwReset_eod (s : State) : (hwReset s).eod = State.reset.eod := rfl
@[simp] theorem hwReset_nfetch (s : State) : (hwReset s).nfetch = State.reset.nfetch := rfl
@[simp] theorem hwReset_hdr (s : State) : (hwReset s).hdr = State.reset.hdr := rfl
@[simp] theorem hwReset_cs (s : State) : (hwReset s).cs = State.reset.cs := rfl
@[simp] theorem hwReset_frame (s : State) : (hwReset s).frame = State.reset.frame := rfl
@[simp] theorem hwReset_sched (s : State) : (hwReset s).sched = s.sched := rfl
@[simp] theorem hwReset_hung (s : State) : (hwReset s).hung = false := rfl
@[simp] theorem hwReset_rx (s : State) : (hwReset s).rx = s.rx := rfl
@[simp] theorem hwReset_src (s : State) : (hwReset s).src = s.src := rfl
@[simp] theorem hwReset_abort (s : State) : (hwReset s).abort = s.abort := rfl
@[simp] theorem hwReset_draws (s : State) : (hwReset s).draws = s.draws := rfl
@[simp] theorem hwReset_hist (s : State) : (hwReset s).hist = s.hist := rfl

/-! ### What is read of the state -/

@[simp] theorem State.remaining_goto (s : State) (c : Cs) : (s.goto c).remaining = s.remaining := rfl
@[simp] theorem State.remaining_record (s : State) (e : Event) : (s.record e).remaining = s.remaining := rfl
@[simp] theorem State.remaining_popTurn (s : State) : (popTurn s).remaining = s.remaining := rfl
@[simp] theorem State.storeCount_popTurn (s : State) : (popTurn s).storeCount = s.storeCount := rfl
@[simp] theorem State.fetchCapacity_popTurn (s : State) : (popTurn s).fetchCapacity = s.fetchCapacity := rfl
@[simp] theorem State.statusWord_popTurn (s : State) : (popTurn s).statusWord = s.statusWord := rfl
@[simp] theorem State.hostValue_popTurn (s : State) (r : HostReg) : (popTurn s).hostValue r = s.hostValue r := by
  cases r <;> rfl

end Sys2Proof.Machine
end

