-- ==== Sys2Proof/Laws/Memory.lean ====
section
/-! SUPPORT. The frame buffer: a read after a write, what a write leaves alone, and that every operation keeps the
canonical form. -/

namespace Sys2Proof.Machine

theorem Memory.find?_eq_none_of_ne (m : Memory) (i : Nat) (h : ∀ c ∈ m, c.1 ≠ i) :
    m.find? (fun c => c.1 == i) = none := by
  rw [List.find?_eq_none]
  intro c hc
  simpa using h c hc

@[simp] theorem Memory.read_nil (i : Nat) : Memory.read [] i = none := rfl

theorem Memory.read_cons (c : Host.Cell) (m : Memory) (i : Nat) :
    Memory.read (c :: m) i = if c.1 = i then some c.2 else Memory.read m i := by
  unfold Memory.read
  rw [List.find?_cons]
  by_cases h : c.1 = i
  · simp [h]
  · rw [show (c.1 == i) = false by simpa using h]
    simp [h]

theorem Memory.read_append (m m' : Memory) (i : Nat) :
    Memory.read (m ++ m') i = (Memory.read m i).or (Memory.read m' i) := by
  induction m with
  | nil => simp
  | cons c m ih =>
    rw [List.cons_append, Memory.read_cons, Memory.read_cons, ih]
    split <;> simp

/-- Keeping the cells of some indices keeps exactly the reads of those indices. -/
theorem Memory.read_filter (m : Memory) (p : Nat → Bool) (i : Nat) :
    Memory.read (m.filter (fun c => p c.1)) i = if p i then Memory.read m i else none := by
  induction m with
  | nil => simp
  | cons c m ih =>
    rw [List.filter_cons, Memory.read_cons]
    by_cases hc : c.1 = i
    · subst hc
      by_cases hp : p c.1 <;> simp [hp, Memory.read_cons, ih]
    · by_cases hp : p c.1 <;> simp [hp, hc, Memory.read_cons, ih]

/-- The cells of a list read as the list. -/
theorem read_cellsFrom (i j : Nat) (l : List Byte) :
    Memory.read (cellsFrom i l) j = if i ≤ j then l[j - i]? else none := by
  induction l generalizing i with
  | nil => simp [cellsFrom]
  | cons b l ih =>
    rw [cellsFrom, Memory.read_cons, ih]
    by_cases hij : i = j
    · subst hij
      simp
    · by_cases hlt : i ≤ j
      · have h1 : i + 1 ≤ j := by omega
        obtain ⟨d, rfl⟩ : ∃ d, j = i + 1 + d := ⟨j - (i + 1), by omega⟩
        have h2 : i + 1 + d - i = d + 1 := by omega
        simp [hij, h1, hlt, h2]
      · have h1 : ¬ i + 1 ≤ j := by omega
        simp [hij, h1, hlt]

/-- A read after a write: the written byte inside the written range, the old byte outside it. -/
theorem Memory.read_writeList (m : Memory) (i j : Nat) (l : List Byte) :
    (m.writeList i l).read j = if i ≤ j ∧ j < i + l.length then l[j - i]? else m.read j := by
  unfold Memory.writeList
  rw [Memory.read_append, Memory.read_append, Memory.read_filter m (fun k => decide (k < i)),
    Memory.read_filter m (fun k => decide (i + l.length ≤ k)), read_cellsFrom]
  by_cases h1 : i ≤ j
  · by_cases h2 : j < i + l.length
    · have hlt : j - i < l.length := by omega
      have h3 : ¬ j < i := by omega
      have h4 : ¬ i + l.length ≤ j := by omega
      simp [h1, h2, h3, h4, List.getElem?_eq_getElem hlt]
    · have hge : l[j - i]? = none := by rw [List.getElem?_eq_none]; omega
      have h3 : ¬ j < i := by omega
      have h4 : i + l.length ≤ j := by omega
      simp [h1, h2, h3, h4, hge]
  · have h2 : j < i := by omega
    have h4 : ¬ i + l.length ≤ j := by omega
    simp [h1, h2, h4]

theorem Memory.read_writeList_inside (m : Memory) (i k : Nat) (l : List Byte) (h : k < l.length) :
    (m.writeList i l).read (i + k) = some l[k] := by
  rw [Memory.read_writeList, if_pos (by omega), Nat.add_sub_cancel_left, List.getElem?_eq_getElem h]

theorem Memory.read_writeList_outside (m : Memory) (i j : Nat) (l : List Byte)
    (h : j < i ∨ i + l.length ≤ j) : (m.writeList i l).read j = m.read j := by
  rw [Memory.read_writeList, if_neg (by omega)]

theorem Memory.read_writeList_one (m : Memory) (i j : Nat) (b : Byte) :
    (m.writeList i [b]).read j = if j = i then some b else m.read j := by
  rw [Memory.read_writeList]
  by_cases h : j = i
  · subst h
    simp
  · rw [if_neg (by simp; omega), if_neg h]

/-! ### MemRead -/

/-- `MemRead` answers exactly the list of the bytes read one by one. -/
theorem Memory.readList_eq_some_iff (m : Memory) (i n : Nat) (l : List Byte) :
    m.readList i n = some l ↔ l.length = n ∧ ∀ k, k < n → m.read (i + k) = l[k]? := by
  induction n generalizing i l with
  | zero =>
    simp only [Memory.readList, Option.some.injEq]
    constructor
    · rintro rfl
      simp
    · rintro ⟨h, -⟩
      exact (List.length_eq_zero_iff.mp h).symm
  | succ n ih =>
    rw [Memory.readList]
    constructor
    · intro h
      cases hb : m.read i with
      | none => simp [hb] at h
      | some b =>
        cases hl : m.readList (i + 1) n with
        | none => simp [hb, hl] at h
        | some r =>
          simp only [hb, hl, Option.some.injEq] at h
          subst h
          obtain ⟨hlen, hr⟩ := (ih (i + 1) r).mp hl
          refine ⟨by simp [hlen], fun k hk => ?_⟩
          cases k with
          | zero => simpa using hb
          | succ k =>
            have := hr k (by omega)
            rw [show i + (k + 1) = i + 1 + k by omega, this]
            simp
    · rintro ⟨hlen, h⟩
      cases l with
      | nil => simp at hlen
      | cons b r =>
        have h0 : m.read i = some b := by simpa using h 0 (by omega)
        have hr : m.readList (i + 1) n = some r := by
          rw [ih]
          refine ⟨by simpa using hlen, fun k hk => ?_⟩
          have := h (k + 1) (by omega)
          rw [show i + 1 + k = i + (k + 1) by omega, this]
          simp
        simp [h0, hr]

/-- `MemRead` answers where every byte was written. -/
theorem Memory.readList_isSome (m : Memory) (i n : Nat) (h : ∀ k, k < n → (m.read (i + k)).isSome = true) :
    ∃ l, m.readList i n = some l ∧ l.length = n := by
  induction n generalizing i with
  | zero => exact ⟨[], rfl, rfl⟩
  | succ n ih =>
    obtain ⟨r, hr, hlen⟩ := ih (i + 1) (fun k hk => by
      have := h (k + 1) (by omega)
      rwa [show i + (k + 1) = i + 1 + k by omega] at this)
    obtain ⟨b, hb⟩ := Option.isSome_iff_exists.mp (h 0 (by omega))
    refine ⟨b :: r, ?_, by simp [hlen]⟩
    rw [Memory.readList]
    rw [Nat.add_zero] at hb
    simp [hb, hr]

theorem Memory.readList_writeList (m : Memory) (i : Nat) (l : List Byte) :
    (m.writeList i l).readList i l.length = some l := by
  rw [Memory.readList_eq_some_iff]
  refine ⟨rfl, fun k hk => ?_⟩
  rw [Memory.read_writeList_inside m i k l hk, List.getElem?_eq_getElem hk]

/-! ### The canonical form -/

theorem cellsFrom_ge (i : Nat) (l : List Byte) : ∀ c ∈ cellsFrom i l, i ≤ c.1 ∧ c.1 < i + l.length := by
  induction l generalizing i with
  | nil => simp [cellsFrom]
  | cons b l ih =>
    intro c hc
    simp only [cellsFrom, List.mem_cons] at hc
    rcases hc with rfl | hc
    · simp
    · have := ih (i + 1) c hc
      simp only [List.length_cons]
      omega

theorem cellsFrom_pairwise (i : Nat) (l : List Byte) : (cellsFrom i l).Pairwise (fun a b => a.1 < b.1) := by
  induction l generalizing i with
  | nil => simp [cellsFrom]
  | cons b l ih =>
    rw [cellsFrom, List.pairwise_cons]
    refine ⟨fun c hc => ?_, ih (i + 1)⟩
    have := (cellsFrom_ge (i + 1) l c hc).1
    simp only
    omega

/-- Writing inside FRAME keeps the canonical form. -/
theorem Memory.wf_writeList (m : Memory) (i : Nat) (l : List Byte) (hm : m.wf)
    (h : i + l.length ≤ Config.frameBytes) : (m.writeList i l).wf := by
  obtain ⟨hp, hb⟩ := hm
  constructor
  · unfold Memory.writeList
    rw [List.pairwise_append, List.pairwise_append]
    refine ⟨⟨hp.filter _, cellsFrom_pairwise i l, ?_⟩, hp.filter _, ?_⟩
    · intro a ha b hb'
      have h1 : a.1 < i := by simpa using (List.mem_filter.mp ha).2
      have h2 := (cellsFrom_ge i l b hb').1
      omega
    · intro a ha b hb'
      have h3 : i + l.length ≤ b.1 := by simpa using (List.mem_filter.mp hb').2
      rcases List.mem_append.mp ha with ha | ha
      · have h1 : a.1 < i := by simpa using (List.mem_filter.mp ha).2
        omega
      · have h2 := (cellsFrom_ge i l a ha).2
        omega
  · intro c hc
    unfold Memory.writeList at hc
    rcases List.mem_append.mp hc with hc | hc
    · rcases List.mem_append.mp hc with hc | hc
      · exact hb c (List.mem_filter.mp hc).1
      · have := (cellsFrom_ge i l c hc).2
        omega
    · exact hb c (List.mem_filter.mp hc).1

/-- The frame buffer after reset is in the canonical form. -/
theorem reset_frame_wf : State.reset.frame.wf := by decide

end Sys2Proof.Machine
end

