-- ==== Sys2Proof/Laws/Ops.lean ====
section
/-! SUPPORT. One lemma per shared operation of Machine/Ops.lean that says everything the operation can do. -/

namespace Sys2Proof.Machine

/-! ### Results -/

@[simp] theorem atPoint_true (s : State) : atPoint true s = .next s := rfl

theorem atPoint_eq_next_iff (b : Bool) (s t : State) : atPoint b s = .next t ↔ b = true ∧ s = t := by
  cases b <;> simp [atPoint]

theorem ofExcept_eq_next_iff (r : Except Fault State) (t : State) : ofExcept r = .next t ↔ r = .ok t := by
  cases r <;> simp [ofExcept]

@[simp] theorem ofExcept_ok (s : State) : ofExcept (.ok s) = .next s := rfl

theorem answering_iff (s : State) (p : ReadPoint) : s.answering p = true ↔ ∃ r, s.cs = .answer p r := by
  unfold State.answering
  constructor
  · intro h
    split at h
    · rename_i q r hc
      exact ⟨r, by rw [hc, eq_of_beq h]⟩
    · simp at h
  · rintro ⟨r, h⟩
    rw [h]
    simp

@[simp] theorem answering_popTurn (s : State) (p : ReadPoint) : (popTurn s).answering p = s.answering p := rfl

/-! ### The frame buffer -/

theorem memRead_eq_ok_iff (i n : Nat) (s : State) (l : List Byte) :
    memRead i n s = .ok l ↔ s.frame.readList i n = some l := by
  unfold memRead
  split <;> simp_all

theorem memWrite_eq_ok (i : Nat) (l : List Byte) (s : State) (h : i + l.length ≤ Config.frameBytes) :
    memWrite i l s = .ok { s with frame := s.frame.writeList i l } := if_pos h

theorem memWrite_eq_ok_iff (i : Nat) (l : List Byte) (s t : State) :
    memWrite i l s = .ok t ↔
      i + l.length ≤ Config.frameBytes ∧ { s with frame := s.frame.writeList i l } = t := by
  unfold memWrite
  split <;> simp_all

/-! ### The draws -/

/-- What a draw of the transport's answer changes. -/
theorem drawAnswer_spec (s : State) :
    ∃ r rx d, drawAnswer s = (r, { s with rx := rx, draws := d }) := by
  unfold drawAnswer
  split
  · exact ⟨_, _, s.draws, rfl⟩
  · exact ⟨_, s.rx, _, rfl⟩

/-- What an abort sample changes. -/
theorem drawAbort_spec (s : State) :
    ∃ v ab d, drawAbort s = (v, { s with abort := ab, draws := d }) := by
  unfold drawAbort
  split
  · exact ⟨_, _, s.draws, rfl⟩
  · exact ⟨_, s.abort, _, rfl⟩

/-- What the source's answer changes, and that it fits the capacity where the listed one does. -/
theorem drawFetch_spec (s : State) :
    ∃ l src d, drawFetch s.fetchCapacity s = (l, { s with src := src, draws := d })
      ∧ (s.sourceFits = true → l.length ≤ s.fetchCapacity) := by
  cases h : s.src with
  | cons l rest =>
    exact ⟨l, rest, s.draws, by simp [drawFetch, h], by simp [State.sourceFits, h]⟩
  | nil =>
    refine ⟨(Config.freeFetch s.draws).take s.fetchCapacity, s.src, s.draws + 1, by simp [drawFetch, h], fun _ => ?_⟩
    rw [List.length_take]
    exact Nat.min_le_left _ _

/-- What a check point can do. -/
theorem checkAbort_spec (c : CheckPoint) (s : State) :
    ∃ v ab d, checkAbort c s =
      { s with
        abort := ab, draws := d, hist := .abortSample v :: s.hist
        cs := if v then .finish .userAborted else c.onward } := by
  obtain ⟨v, ab, d, h⟩ := drawAbort_spec s
  exact ⟨v, ab, d, by unfold checkAbort; rw [h]; rfl⟩

/-- What a read can do. -/
theorem receive_spec (p : ReadPoint) (s : State) :
    ∃ r rx d, receive p s =
      { s with
        rx := rx, draws := d, hist := .rx p.timer r :: s.hist, cs := .check (.after p r) } := by
  obtain ⟨r, rx, d, h⟩ := drawAnswer_spec s
  exact ⟨r, rx, d, by unfold receive; rw [h]; rfl⟩

/-- A check point whose sample is listed. -/
theorem checkAbort_listed (c : CheckPoint) (s : State) (v : Bool) (rest : List Bool) (h : s.abort = v :: rest) :
    checkAbort c s =
      { s with
        abort := rest, hist := .abortSample v :: s.hist
        cs := if v then .finish .userAborted else c.onward } := by
  unfold checkAbort drawAbort
  rw [h]
  rfl

/-- A read whose answer is listed. -/
theorem receive_listed (p : ReadPoint) (s : State) (r : Answer) (rest : List Answer) (h : s.rx = r :: rest) :
    receive p s =
      { s with rx := rest, hist := .rx p.timer r :: s.hist, cs := .check (.after p r) } := by
  unfold receive drawAnswer
  rw [h]
  rfl

/-! ### Sizes -/

theorem BlockSize.bytes_le (b : BlockSize) : b.bytes ≤ Config.blkLarge := by cases b <;> decide

theorem TrailerSize.bytes_le (t : TrailerSize) : t.bytes ≤ 2 := by cases t <;> decide

theorem TrailerSize.bytes_pos (t : TrailerSize) : 1 ≤ t.bytes := by cases t <;> decide

theorem frameLength_le (b : BlockSize) (t : TrailerSize) : frameLength b t ≤ Config.frameBytes := by
  cases b <;> cases t <;> decide

theorem frameLength_eq_bodyLength (b : BlockSize) (t : TrailerSize) : frameLength b t = bodyLength b t + 1 := by
  unfold frameLength bodyLength
  omega

theorem bodyLength_pos (b : BlockSize) (t : TrailerSize) : 0 < bodyLength b t := by
  unfold bodyLength
  omega

theorem trailer_length (m : Mode) (p : List Byte) : (trailer m p).length = m.trailerSize.bytes := by
  unfold trailer Mode.trailerSize
  split <;> rfl

theorem frameOf_length (h s c : Byte) (p t : List Byte) : (frameOf h s c p t).length = 3 + p.length + t.length := by
  simp [frameOf]
  omega

theorem paddedPayload_length (l : List Byte) (s : State) (h : l.length ≤ s.bsize.bytes) :
    (paddedPayload l s).length = s.bsize.bytes := by
  unfold paddedPayload
  rw [List.length_append, List.length_replicate]
  omega

/-- R83: a built frame is `3 + BSIZE + TSIZE` bytes long. -/
theorem builtFrame_length (p : List Byte) (s : State) (h : p.length = s.bsize.bytes) :
    (builtFrame p s).length = frameLength s.bsize s.mode.trailerSize := by
  unfold builtFrame frameLength
  rw [frameOf_length, trailer_length, h]

theorem builtFrame_head (p : List Byte) (s : State) : (builtFrame p s)[0]? = some s.bsize.header := rfl

end Sys2Proof.Machine
end

