-- ==== Sys2Proof/Laws/Run.lean ====
section
/-! SUPPORT. What a step can do, said once: whose move it is, and for each point of the two listings what the block
does there. -/

namespace Sys2Proof.Machine

/-! ### Whose move it is -/

theorem step_computing (s : State) (h : s.computing = true) : step s = runPoint s := if_pos h

theorem step_turn (s : State) (h : s.computing = false) :
    step s =
      match s.turn with
      | .seq => runPoint (popTurn s)
      | .host a => hostAccess a (popTurn s)
      | .reset => .next (hwReset (popTurn s))
      | .wait => .next (popTurn s)
      | .hang => .next { popTurn s with hung := true } := if_neg (by simp [h])

theorem step_seq (s : State) (h : s.computing = false) (ht : s.turn = .seq) : step s = runPoint (popTurn s) := by
  rw [step_turn s h, ht]

theorem step_host (s : State) (a : HostAccess) (h : s.computing = false) (ht : s.turn = .host a) :
    step s = hostAccess a (popTurn s) := by
  rw [step_turn s h, ht]

theorem step_reset (s : State) (h : s.computing = false) (ht : s.turn = .reset) :
    step s = .next (hwReset (popTurn s)) := by
  rw [step_turn s h, ht]

theorem step_wait (s : State) (h : s.computing = false) (ht : s.turn = .wait) : step s = .next (popTurn s) := by
  rw [step_turn s h, ht]

theorem step_hang (s : State) (h : s.computing = false) (ht : s.turn = .hang) :
    step s = .next { popTurn s with hung := true } := by
  rw [step_turn s h, ht]

/-- Every step is one of these six. -/
theorem step_cases {s : State} {r : Res} (h : step s = r) :
    (s.computing = true ∧ runPoint s = r)
      ∨ (s.computing = false ∧ s.turn = .seq ∧ runPoint (popTurn s) = r)
      ∨ (s.computing = false ∧ ∃ a, s.turn = .host a ∧ hostAccess a (popTurn s) = r)
      ∨ (s.computing = false ∧ s.turn = .reset ∧ r = .next (hwReset (popTurn s)))
      ∨ (s.computing = false ∧ s.turn = .wait ∧ r = .next (popTurn s))
      ∨ (s.computing = false ∧ s.turn = .hang ∧ r = .next { popTurn s with hung := true }) := by
  cases hc : s.computing with
  | true => exact .inl ⟨rfl, by rw [← h, step_computing s hc]⟩
  | false =>
    rw [step_turn s hc] at h
    cases ht : s.turn with
    | seq =>
      simp only [ht] at h
      exact .inr (.inl ⟨rfl, rfl, h⟩)
    | host a =>
      simp only [ht] at h
      exact .inr (.inr (.inl ⟨rfl, a, rfl, h⟩))
    | reset =>
      simp only [ht] at h
      exact .inr (.inr (.inr (.inl ⟨rfl, rfl, h.symm⟩)))
    | wait =>
      simp only [ht] at h
      exact .inr (.inr (.inr (.inr (.inl ⟨rfl, rfl, h.symm⟩))))
    | hang =>
      simp only [ht] at h
      exact .inr (.inr (.inr (.inr (.inr ⟨rfl, rfl, h.symm⟩))))

/-! ### What the turn says -/

/-- It is the host's move exactly when the schedule says so. -/
theorem turn_eq_host_iff (s : State) (a : HostAccess) : s.turn = .host a ↔ s.sched.headD .seq = .host a := by
  unfold State.turn
  cases s.sched.headD .seq <;> simp only [reduceCtorEq] <;> split <;> simp

/-- The reset input is asserted exactly when the schedule says so. -/
theorem turn_eq_reset_iff (s : State) : s.turn = .reset ↔ s.sched.headD .seq = .reset := by
  unfold State.turn
  cases s.sched.headD .seq <;> simp only [reduceCtorEq] <;> split <;> simp

/-- A schedule that names a move at its head is not empty. -/
theorem sched_of_head {s : State} {m : Turn} (h : s.sched.headD .seq = m) (hm : m ≠ .seq) :
    ∃ rest, s.sched = m :: rest := by
  cases hs : s.sched with
  | nil => exact absurd (by rw [← h, hs]; rfl) hm
  | cons x rest => exact ⟨rest, by rw [← h, hs]; rfl⟩

theorem turn_of_sched_host {s : State} {a : HostAccess} {rest : List Turn} (h : s.sched = .host a :: rest) :
    s.turn = .host a := (turn_eq_host_iff s a).mpr (by rw [h]; rfl)

theorem turn_of_sched_reset {s : State} {rest : List Turn} (h : s.sched = .reset :: rest) : s.turn = .reset :=
  (turn_eq_reset_iff s).mpr (by rw [h]; rfl)

/-- R337: only an outstanding transaction waits or hangs. -/
theorem onPort_of_turn {s : State} (h : s.turn = .wait ∨ s.turn = .hang) : s.onPort = true := by
  unfold State.turn at h
  cases hp : s.onPort with
  | true => rfl
  | false =>
    rw [hp] at h
    generalize s.sched.headD .seq = m at h
    cases m <;> simp at h

/-- Where a transaction hangs, the sequencer has no move. -/
theorem hung_of_turn_seq {s : State} (h : s.turn = .seq) (hp : s.onPort = true) : s.hung = false := by
  unfold State.turn at h
  cases hd : s.sched.headD .seq <;> simp only [hd, hp, Bool.true_and] at h
  · cases hh : s.hung with
    | false => rfl
    | true => simp [hh] at h
  all_goals simp at h

/-- A point of internal computation has no transaction outstanding. -/
theorem onPort_of_computing {s : State} (h : s.computing = true) : s.onPort = false := by
  unfold State.computing at h
  unfold State.onPort
  cases hc : s.cs <;> simp_all [Cs.internal, Cs.waits]

/-! ### Runs -/

@[simp] theorem steps_zero (s : State) : steps 0 s = .next s := rfl

theorem steps_succ (n : Nat) (s : State) :
    steps (n + 1) s =
      match step s with
      | .next t => steps n t
      | .fault f => .fault f
      | .refused r => .refused r := rfl

theorem steps_of_step {s t : State} (n : Nat) (h : step s = .next t) : steps (n + 1) s = steps n t := by
  rw [steps_succ, h]

theorem steps_one (s : State) : steps 1 s = step s := by
  rw [steps_succ]
  cases step s <;> rfl

/-- A run splits anywhere. -/
theorem steps_add (m n : Nat) {s t : State} (h : steps m s = .next t) : steps (m + n) s = steps n t := by
  induction m generalizing s with
  | zero =>
    rw [steps_zero, Host.Outcome.next.injEq] at h
    rw [Nat.zero_add, h]
  | succ m ih =>
    rw [steps_succ] at h
    rw [Nat.add_right_comm, steps_succ]
    cases hs : step s with
    | next u =>
      simp only [hs] at h
      exact ih h
    | fault f => simp [hs] at h
    | refused r => simp [hs] at h

/-! ### A machine left alone -/

theorem undisturbed_turn {s : State} (h : s.undisturbed) : s.turn = .seq := by
  simp [State.turn, h.1, h.2]

theorem undisturbed_popTurn {s : State} (h : s.undisturbed) : popTurn s = s := by
  unfold popTurn
  rw [show s.sched.tail = s.sched by rw [h.1]; rfl]

/-- A machine left alone performs the primitive where CS stands. -/
theorem step_undisturbed {s : State} (h : s.undisturbed) : step s = runPoint s := by
  cases hc : s.computing with
  | true => exact step_computing s hc
  | false => rw [step_seq s hc (undisturbed_turn h), undisturbed_popTurn h]

/-! ### What the block does at each point -/

section points
variable {s : State}

theorem runPoint_idle (hb : s.busy = false) : runPoint s = .next s := by
  simp [runPoint, hb]

/-- A point whose primitive no row stands for. -/
theorem runPoint_none (hb : s.busy = true) (h : codeAt s = .ok none) : runPoint s = sequencer s := by
  simp [runPoint, hb, h]

/-- A point where a row stands. -/
theorem runPoint_some {c : Code} (hb : s.busy = true) (h : codeAt s = .ok (some c)) : runPoint s = runCode c s := by
  simp [runPoint, hb, h]

theorem runPoint_check {c : CheckPoint} (hb : s.busy = true) (h : s.cs = .check c) :
    runPoint s = .next (checkAbort c s) := by
  simp [runPoint, hb, codeAt, sequencer, h]

theorem runPoint_recv {p : ReadPoint} (hb : s.busy = true) (h : s.cs = .recv p) :
    runPoint s = .next (receive p s) := by
  simp [runPoint, hb, codeAt, sequencer, h]

theorem runPoint_rxHdr {r : Answer} (hb : s.busy = true) (h : s.cs = .answer .rxHdr r) :
    runPoint s = exec (decodeHdr r) s := by
  simp [runPoint, hb, codeAt, h, ReadPoint.answerPoint, runCode, decode, decodeAnswer]

theorem runPoint_rxBodyByte {k : Nat} {b : Byte} (hb : s.busy = true) (h : s.cs = .answer (.rxBody k) (.byte b)) :
    runPoint s = exec (.rxBodyByte b) s := by
  simp [runPoint, hb, codeAt, h, ReadPoint.answerPoint, runCode, decode, decodeAnswer]

theorem runPoint_rxBodyTimeout {k : Nat} (hb : s.busy = true) (h : s.cs = .answer (.rxBody k) .timeout) :
    runPoint s = .next (s.goto .nak) := by
  simp [runPoint, hb, codeAt, sequencer, h]

theorem runPoint_txNeg {r : Answer} (hb : s.busy = true) (h : s.cs = .answer .txNeg r) :
    runPoint s = exec (decodeNeg r) s := by
  simp [runPoint, hb, codeAt, h, ReadPoint.answerPoint, runCode, decode, decodeAnswer]

theorem runPoint_txRsp {r : Answer} (hb : s.busy = true) (h : s.cs = .answer .txRsp r) :
    runPoint s = exec (decodeRsp r) s := by
  simp [runPoint, hb, codeAt, h, ReadPoint.answerPoint, runCode, decode, decodeAnswer]

theorem runPoint_txEot {r : Answer} (hb : s.busy = true) (h : s.cs = .answer .txEot r) :
    runPoint s = exec (decodeEot r) s := by
  simp [runPoint, hb, codeAt, h, ReadPoint.answerPoint, runCode, decode, decodeAnswer]

theorem runPoint_rxCan {r : Answer} (hb : s.busy = true) (h : s.cs = .answer .rxCan r) :
    runPoint s = .next (secondCanRx r s) := by
  simp [runPoint, hb, codeAt, h, ReadPoint.answerPoint, sequencer]

theorem runPoint_txNegCan {r : Answer} (hb : s.busy = true) (h : s.cs = .answer .txNegCan r) :
    runPoint s = .next (secondCanTx .txNHead r s) := by
  simp [runPoint, hb, codeAt, h, ReadPoint.answerPoint, sequencer]

theorem runPoint_txRspCan {r : Answer} (hb : s.busy = true) (h : s.cs = .answer .txRspCan r) :
    runPoint s = .next (secondCanTx .txSHead r s) := by
  simp [runPoint, hb, codeAt, h, ReadPoint.answerPoint, sequencer]

theorem runPoint_rxWait (hb : s.busy = true) (h : s.cs = .rxWait) : runPoint s = .next (enterWait s) := by
  simp [runPoint, hb, codeAt, sequencer, h]

theorem runPoint_rxTest (hb : s.busy = true) (h : s.cs = .rxTest) : runPoint s = .next (headerTest s) := by
  simp [runPoint, hb, codeAt, sequencer, h]

theorem runPoint_rxCount (hb : s.busy = true) (h : s.cs = .rxCount) : runPoint s = .next (countAttempt s) := by
  simp [runPoint, hb, codeAt, sequencer, h]

theorem runPoint_rxBody (hb : s.busy = true) (h : s.cs = .rxBody) : runPoint s = enterBody s := by
  simp [runPoint, hb, codeAt, sequencer, h]

theorem runPoint_rxStore (hb : s.busy = true) (h : s.cs = .rxStore) : runPoint s = storePacket s := by
  simp [runPoint, hb, codeAt, sequencer, h]

theorem runPoint_flush {site : FlushSite} (hb : s.busy = true) (h : s.cs = .flush site) :
    runPoint s = .next (flushInput (afterFlush site) s) := by
  simp [runPoint, hb, codeAt, sequencer, h]

theorem runPoint_finish {o : OutcomeCode} (hb : s.busy = true) (h : s.cs = .finish o) :
    runPoint s = .next (terminate o s) := by
  simp [runPoint, hb, codeAt, sequencer, h]

theorem runPoint_txNegTest (hb : s.busy = true) (h : s.cs = .txNegTest) : runPoint s = .next (negotiationTest s) := by
  simp [runPoint, hb, codeAt, sequencer, h]

theorem runPoint_txBlock (hb : s.busy = true) (h : s.cs = .txBlock) : runPoint s = .next (chooseBlock s) := by
  simp [runPoint, hb, codeAt, sequencer, h]

theorem runPoint_txFetch (hb : s.busy = true) (h : s.cs = .txFetch) : runPoint s = fetchBlock s := by
  simp [runPoint, hb, codeAt, sequencer, h]

theorem runPoint_txCapTest (hb : s.busy = true) (h : s.cs = .txCapTest) : runPoint s = .next (capTest s) := by
  simp [runPoint, hb, codeAt, sequencer, h]

theorem runPoint_txAcked (hb : s.busy = true) (h : s.cs = .txAcked) : runPoint s = .next (packetAcked s) := by
  simp [runPoint, hb, codeAt, sequencer, h]

theorem runPoint_txEotPhase (hb : s.busy = true) (h : s.cs = .txEot) : runPoint s = .next (enterEot s) := by
  simp [runPoint, hb, codeAt, sequencer, h]

theorem runPoint_txEotTest (hb : s.busy = true) (h : s.cs = .txEotTest) : runPoint s = .next (eotTest s) := by
  simp [runPoint, hb, codeAt, sequencer, h]

theorem runPoint_rxNeg (hb : s.busy = true) (h : s.cs = .rxNeg) (hm : s.mode ≠ .none) :
    ∃ b, negByte s.mode = some b ∧ runPoint s = .next (send b .rxCount s) := by
  cases hmode : s.mode with
  | none => exact absurd hmode hm
  | gmode =>
    refine ⟨Config.ascG, rfl, ?_⟩
    rw [runPoint_some (c := .sent .neg [Config.ascG]) hb (by simp [codeAt, h, hmode, negByte])]
    simp [runCode, show decode (.sent .neg [Config.ascG]) = .ok .emitNegG by decide, exec, execEmitNegG, emitNeg, h,
      hmode]
  | crc =>
    refine ⟨Config.ascC, rfl, ?_⟩
    rw [runPoint_some (c := .sent .neg [Config.ascC]) hb (by simp [codeAt, h, hmode, negByte])]
    simp [runCode, show decode (.sent .neg [Config.ascC]) = .ok .emitNegC by decide, exec, execEmitNegC, emitNeg, h,
      hmode]
  | arith =>
    refine ⟨Config.nakByte, rfl, ?_⟩
    rw [runPoint_some (c := .sent .neg [Config.nakByte]) hb (by simp [codeAt, h, hmode, negByte])]
    simp [runCode, show decode (.sent .neg [Config.nakByte]) = .ok .emitNegNak by decide, exec, execEmitNegNak,
      emitNeg, h, hmode]

theorem runPoint_ack {site : AckSite} (hb : s.busy = true) (h : s.cs = .ack site) :
    runPoint s = .next (send Config.ackByte (afterAck site s) s) := by
  rw [runPoint_some (c := .sent .ack [Config.ackByte]) hb (by simp [codeAt, h])]
  simp [runCode, show decode (.sent .ack [Config.ackByte]) = .ok .emitAck by decide, exec, execEmitAck, h]

theorem runPoint_nak (hb : s.busy = true) (h : s.cs = .nak) :
    runPoint s = .next (send Config.nakByte .rxWait s) := by
  rw [runPoint_some (c := .sent .nak [Config.nakByte]) hb (by simp [codeAt, h])]
  simp [runCode, show decode (.sent .nak [Config.nakByte]) = .ok .emitNak by decide, exec, execEmitNak, h]

theorem runPoint_can3 {k : Nat} {o : OutcomeCode} (hb : s.busy = true) (h : s.cs = .can3 k o) :
    runPoint s =
      .next (send Config.can (if k + 1 < Config.canAbortCount then .can3 (k + 1) o else .finish o) s) := by
  rw [runPoint_some (c := .sent .can3 [Config.can, Config.can, Config.can]) hb (by simp [codeAt, h])]
  simp [runCode, show decode (.sent .can3 [Config.can, Config.can, Config.can]) = .ok .emitCan3 by decide, exec,
    execEmitCan3, h]

theorem runPoint_txSendEot (hb : s.busy = true) (h : s.cs = .txSendEot) :
    runPoint s = .next (send Config.eot (.check (.before .txEot)) { s with eotn := s.eotn + 1 }) := by
  rw [runPoint_some (c := .sent .eot [Config.eot]) hb (by simp [codeAt, h])]
  simp [runCode, show decode (.sent .eot [Config.eot]) = .ok .emitEot by decide, exec, execEmitEot, h]

end points

/-! ### Frames -/

theorem crcBytes_append (hi lo : Byte) : crcBytes (hi ++ lo) = [hi, lo] := by
  have h1 : (hi ++ lo : BitVec (8 + 8)).extractLsb' 8 8 = hi := by
    apply BitVec.eq_of_getLsbD_eq
    intro i hi'
    rw [BitVec.getLsbD_extractLsb', BitVec.getLsbD_append, if_neg (by omega), Nat.add_sub_cancel_left]
    simp [hi']
  have h2 : (hi ++ lo : BitVec (8 + 8)).extractLsb' 0 8 = lo := by
    apply BitVec.eq_of_getLsbD_eq
    intro i hi'
    rw [BitVec.getLsbD_extractLsb', BitVec.getLsbD_append, if_pos (by omega)]
    simp [hi']
  exact congrArg₂ (fun a b => [a, b]) h1 h2

/-- A list of at least three bytes beyond its header splits into its fields. -/
theorem decodeFields_spec (bs : Nat) (rest tr : List Byte) (h : rest.drop (2 + bs) = tr) (hl : 2 ≤ rest.length) :
    ∃ q c p, decodeFields bs rest = (q, c, p, tr) ∧ rest = q :: c :: p ++ tr := by
  match rest, hl with
  | q :: c :: r, _ =>
    refine ⟨q, c, r.take bs, ?_, ?_⟩
    · unfold decodeFields
      rw [h]
      rfl
    · rw [← h]
      have : (q :: c :: r).drop (2 + bs) = r.drop bs := by
        rw [Nat.add_comm]
        rfl
      rw [this]
      simp

/-- The bytes of a frame of that size run its row. -/
theorem runCode_frame (bs : BlockSize) (ts : TrailerSize) (f : List Byte) (s : State)
    (hl : f.length = frameLength bs ts) (hh : f[0]? = some bs.header) :
    runCode (.frame f) s = runFrame bs ts f s := by
  cases f with
  | nil => simp at hh
  | cons h rest =>
    simp only [List.getElem?_cons_zero, Option.some.injEq] at hh
    subst hh
    have hrl : rest.length = bs.bytes + 2 + ts.bytes := by
      unfold frameLength at hl
      simp only [List.length_cons] at hl
      omega
    have hdl : (rest.drop (2 + bs.bytes)).length = ts.bytes := by
      rw [List.length_drop]
      omega
    obtain ⟨q, c, p, hf, hr⟩ := decodeFields_spec bs.bytes rest _ rfl (by omega)
    generalize rest.drop (2 + bs.bytes) = tr at *
    subst hr
    rw [List.cons_append, List.cons_append] at hf
    cases ts with
    | one =>
      obtain ⟨t, rfl⟩ : ∃ t, tr = [t] := List.length_eq_one_iff.mp hdl
      cases bs <;>
        simp only [BlockSize.bytes, BlockSize.header] at * <;>
        simp [runCode, decode, decodeFrame, hf, exec, execFrameSohArith, execFrameStxArith, frameOf,
          show ¬ Config.stx = Config.soh by decide]
    | two =>
      obtain ⟨hi, lo, rfl⟩ : ∃ hi lo, tr = [hi, lo] := List.length_eq_two.mp hdl
      cases bs <;>
        simp only [BlockSize.bytes, BlockSize.header] at * <;>
        simp [runCode, decode, decodeFrame, hf, exec, execFrameSohCrc, execFrameStxCrc, frameOf,
          crcBytes_append, show ¬ Config.stx = Config.soh by decide]

/-- The frame in FRAME, where it was written whole with the header byte of BSIZE. -/
theorem runPoint_frame {s : State} {f : List Byte} (hb : s.busy = true)
    (hc : s.cs = .rxClassify ∨ ∃ i, s.cs = .txSend i)
    (hf : s.frame.readList 0 (frameLength s.bsize s.tsize) = some f) (hh : f[0]? = some s.bsize.header) :
    runPoint s = runFrame s.bsize s.tsize f s := by
  have hcode : codeAt s = .ok (some (.frame f)) := by
    have hfc : frameCode s = .ok (some (.frame f)) := by
      unfold frameCode
      rw [(memRead_eq_ok_iff _ _ _ _).mpr hf]
    rcases hc with hc | ⟨i, hc⟩ <;> simp [codeAt, hc, hfc]
  rw [runPoint_some hb hcode]
  exact runCode_frame _ _ _ _ ((Memory.readList_eq_some_iff _ _ _ _).mp hf).1 hh

theorem runPoint_classify {s : State} {f : List Byte} (hb : s.busy = true) (hc : s.cs = .rxClassify)
    (hf : s.frame.readList 0 (frameLength s.bsize s.tsize) = some f) (hh : f[0]? = some s.bsize.header) :
    runPoint s = .next (answerPacket (classify s.mode s.bsize.bytes f s.seq) s) := by
  rw [runPoint_frame hb (.inl hc) hf hh]
  simp [runFrame, hc]

theorem runPoint_txSend {s : State} {f : List Byte} {i : Nat} {b : Byte} (hb : s.busy = true) (hc : s.cs = .txSend i)
    (hf : s.frame.readList 0 (frameLength s.bsize s.tsize) = some f) (hh : f[0]? = some s.bsize.header)
    (hi : f[i]? = some b) : runPoint s = .next (sendFrameByte i b s) := by
  rw [runPoint_frame hb (.inr ⟨i, hc⟩) hf hh]
  simp [runFrame, hc, hi]

end Sys2Proof.Machine
end

