-- ==== Sys2Proof/Laws/Moves.lean ====
section
/-! SUPPORT. Everything a session's move can do, said once: `Moves s t` lists, for each point of the two listings, the
next states the block can go to from there, and `moves_of_runPoint` says that the block does nothing else. A statement
about every step is then a case split over this list. -/

namespace Sys2Proof.Machine

/-- The moves of a running session. -/
inductive Moves (s : State) : State → Prop
  | checked (c : CheckPoint) (v : Bool) (ab : List Bool) (d : Nat) (h : s.cs = .check c) :
    Moves s
      { s with
        abort := ab, draws := d, hist := .abortSample v :: s.hist
        cs := if v then .finish .userAborted else c.onward }
  | received (p : ReadPoint) (r : Answer) (rx : List Answer) (d : Nat) (h : s.cs = .recv p) :
    Moves s { s with rx := rx, draws := d, hist := .rx p.timer r :: s.hist, cs := .check (.after p r) }
  | header (bs : BlockSize) (r : Answer) (h : s.cs = .answer .rxHdr r) : Moves s (packetHeader bs s)
  | headerEot (r : Answer) (h : s.cs = .answer .rxHdr r) : Moves s (s.goto (.ack .eot))
  | headerCan (r : Answer) (h : s.cs = .answer .rxHdr r) : Moves s (s.goto (.check (.before .rxCan)))
  | headerOther (r : Answer) (h : s.cs = .answer .rxHdr r) : Moves s (s.goto (.check (.head .rxHead)))
  | secondCanRx (r : Answer) (h : s.cs = .answer .rxCan r) : Moves s (secondCanRx r s)
  | bodyByte (k : Nat) (b : Byte) (h : s.cs = .answer (.rxBody k) (.byte b)) (hk : 1 + k < Config.frameBytes) :
    Moves s { s with frame := s.frame.writeList (1 + k) [b], cs := afterBodyByte k s }
  | bodyTimeout (k : Nat) (h : s.cs = .answer (.rxBody k) .timeout) : Moves s (s.goto .nak)
  | selected (m : Mode) (hm : m ≠ .none) (r : Answer) (h : s.cs = .answer .txNeg r) : Moves s (selectMode m s)
  | negotiationCan (r : Answer) (h : s.cs = .answer .txNeg r) : Moves s (s.goto (.check (.before .txNegCan)))
  | negotiationOther (r : Answer) (h : s.cs = .answer .txNeg r) : Moves s (s.goto (.check (.head .txNHead)))
  | secondCanNeg (r : Answer) (h : s.cs = .answer .txNegCan r) : Moves s (secondCanTx .txNHead r s)
  | responseAck (r : Answer) (h : s.cs = .answer .txRsp r) : Moves s (s.goto .txAcked)
  | responseCan (r : Answer) (h : s.cs = .answer .txRsp r) : Moves s (s.goto (.check (.before .txRspCan)))
  | responseOther (r : Answer) (h : s.cs = .answer .txRsp r) : Moves s (s.goto (.check (.head .txSHead)))
  | secondCanRsp (r : Answer) (h : s.cs = .answer .txRspCan r) : Moves s (secondCanTx .txSHead r s)
  | eotAck (r : Answer) (h : s.cs = .answer .txEot r) : Moves s (s.goto (.finish .done))
  | eotOther (r : Answer) (h : s.cs = .answer .txEot r) : Moves s (s.goto (.check (.head .txEHead)))
  | waited (h : s.cs = .rxWait) : Moves s (enterWait s)
  | tested (h : s.cs = .rxTest) : Moves s (headerTest s)
  | negotiated (b : Byte) (hb : negByte s.mode = some b) (h : s.cs = .rxNeg) : Moves s (send b .rxCount s)
  | counted (h : s.cs = .rxCount) : Moves s (countAttempt s)
  | bodyEntered (h : s.cs = .rxBody) :
    Moves s
      { s with
        neg := false, tsize := s.mode.trailerSize, cs := .check (.before (.rxBody 0))
        frame := s.frame.writeList 0 [s.hdr] }
  | classified (f : List Byte) (h : s.cs = .rxClassify)
      (hf : s.frame.readList 0 (frameLength s.bsize s.tsize) = some f) :
    Moves s (answerPacket (classify s.mode s.bsize.bytes f s.seq) s)
  | stored (l : List Byte) (h : s.cs = .rxStore) (hl : s.frame.readList 3 s.storeCount = some l) :
    Moves s
      { s with
        bytes := s.bytes + BitVec.ofNat 32 s.storeCount, seq := s.seq + 1#8, guard := 0
        cs := if s.mode = .gmode then afterAccepted s else .ack .accepted
        hist := .store l :: s.hist }
  | acked (site : AckSite) (h : s.cs = .ack site) : Moves s (send Config.ackByte (afterAck site s) s)
  | naked (h : s.cs = .nak) : Moves s (send Config.nakByte .rxWait s)
  | cancelled (k : Nat) (o : OutcomeCode) (h : s.cs = .can3 k o) :
    Moves s (send Config.can (if k + 1 < Config.canAbortCount then .can3 (k + 1) o else .finish o) s)
  | flushed (site : FlushSite) (h : s.cs = .flush site) : Moves s (flushInput (afterFlush site) s)
  | finished (o : OutcomeCode) (h : s.cs = .finish o) : Moves s (terminate o s)
  | negotiationTested (h : s.cs = .txNegTest) : Moves s (negotiationTest s)
  | blockChosen (h : s.cs = .txBlock) : Moves s (chooseBlock s)
  | fetchedNothing (src : List (List Byte)) (d : Nat) (h : s.cs = .txFetch) (hc : s.ctrl = false) :
    Moves s
      { s with
        src := src, draws := d, nfetch := 0, eod := s.eod || decide (0 < s.fetchCapacity), cs := .txEot
        hist := .fetch s.fetchCapacity [] :: s.hist }
  | built (l : List Byte) (src : List (List Byte)) (d : Nat) (h : s.cs = .txFetch)
      (hl : l.length ≤ s.fetchCapacity) (hn : s.ctrl = false → l ≠ [])
      (hw : (builtFrame (paddedPayload l s) s).length ≤ Config.frameBytes) :
    Moves s
      { s with
        src := src, draws := d, nfetch := l.length, eod := s.eod || decide (l.length < s.fetchCapacity)
        hist := .fetch s.fetchCapacity l :: s.hist, tsize := s.mode.trailerSize, tries := 0
        cs := .check (.head .txSHead), frame := s.frame.writeList 0 (builtFrame (paddedPayload l s) s) }
  | capTested (h : s.cs = .txCapTest) : Moves s (capTest s)
  | frameByteSent (i : Nat) (b : Byte) (h : s.cs = .txSend i) (hb : s.frame.read i = some b) :
    Moves s (sendFrameByte i b s)
  | packetAcked (h : s.cs = .txAcked) : Moves s (packetAcked s)
  | eotEntered (h : s.cs = .txEot) : Moves s (enterEot s)
  | eotTested (h : s.cs = .txEotTest) : Moves s (eotTest s)
  | eotSent (h : s.cs = .txSendEot) :
    Moves s (send Config.eot (.check (.before .txEot)) { s with eotn := s.eotn + 1 })

/-- The block's own moves touch neither the schedule nor what hangs. -/
theorem Moves.surroundings {s t : State} (h : Moves s t) : t.sched = s.sched ∧ t.hung = s.hung := by
  cases h with
  | tested =>
    unfold headerTest
    repeat' split
    all_goals exact ⟨rfl, rfl⟩
  | classified =>
    unfold answerPacket
    split <;> exact ⟨rfl, rfl⟩
  | negotiationTested =>
    unfold negotiationTest
    split <;> exact ⟨rfl, rfl⟩
  | blockChosen =>
    unfold chooseBlock
    split <;> exact ⟨rfl, rfl⟩
  | frameByteSent =>
    unfold sendFrameByte
    split <;> exact ⟨rfl, rfl⟩
  | _ => exact ⟨rfl, rfl⟩

/-- A frame that decodes runs as a frame of one of the two sizes, with the very bytes it was read from. -/
theorem decodeFrame_runs {f : List Byte} {i : Instr} (h : decode (.frame f) = .ok i) (s : State) :
    ∃ bs ts, exec i s = runFrame bs ts f s := by
  cases f with
  | nil => simp [decode, decodeFrame] at h
  | cons hd rest =>
    simp only [decode, decodeFrame] at h
    have hlen : ∀ (bs : Nat) {q c : Byte} {p tr : List Byte}, tr ≠ [] → decodeFields bs rest = (q, c, p, tr) →
        rest = q :: c :: p ++ tr := by
      intro bs q c p tr hne hd
      have htr : rest.drop (2 + bs) = tr := by
        have := congrArg (fun x => x.2.2.2) hd
        simpa [decodeFields] using this
      have h2 : 2 ≤ rest.length := by
        by_contra hlt
        apply hne
        rw [← htr, List.drop_eq_nil_iff]
        omega
      obtain ⟨q', c', p', hd', hr⟩ := decodeFields_spec bs rest tr htr h2
      rw [hd'] at hd
      cases hd
      exact hr
    split at h
    · rename_i hs
      subst hs
      split at h <;> try cases h
      · rename_i hd
        rw [hlen _ (by simp) hd]
        exact ⟨.small, .one, rfl⟩
      · rename_i hd
        rw [hlen _ (by simp) hd]
        refine ⟨.small, .two, ?_⟩
        simp [exec, execFrameSohCrc, frameOf, crcBytes_append]
    · split at h
      · rename_i hs
        subst hs
        split at h <;> try cases h
        · rename_i hd
          rw [hlen _ (by simp) hd]
          exact ⟨.large, .one, rfl⟩
        · rename_i hd
          rw [hlen _ (by simp) hd]
          refine ⟨.large, .two, ?_⟩
          simp [exec, execFrameStxCrc, frameOf, crcBytes_append]
      · cases h

/-- At a point where the frame in FRAME runs, the frame was written whole. -/
theorem runFrame_of_runPoint {s t : State} (hb : s.busy = true) (hc : codeAt s = frameCode s)
    (hs : runPoint s = .next t) :
    ∃ f bs ts, s.frame.readList 0 (frameLength s.bsize s.tsize) = some f ∧ runFrame bs ts f s = .next t := by
  unfold runPoint at hs
  rw [if_pos hb, hc] at hs
  unfold frameCode at hs
  cases hf : memRead 0 (frameLength s.bsize s.tsize) s with
  | error e => simp [hf] at hs
  | ok f =>
    simp only [hf] at hs
    unfold runCode at hs
    cases hd : decode (.frame f) with
    | error e => simp [hd] at hs
    | ok i =>
      simp only [hd] at hs
      obtain ⟨bs, ts, he⟩ := decodeFrame_runs hd s
      exact ⟨f, bs, ts, (memRead_eq_ok_iff _ _ _ _).mp hf, by rw [← he, hs]⟩

/-- The block's moves are the listed ones. -/
theorem moves_of_runPoint {s t : State} (hb : s.busy = true) (hi : s.cs ≠ .idle) (hs : runPoint s = .next t) :
    Moves s t := by
  cases hcs : s.cs with
  | idle => exact absurd hcs hi
  | check c =>
    rw [runPoint_check hb hcs] at hs
    cases hs
    obtain ⟨v, ab, d, e⟩ := checkAbort_spec c s
    rw [e]
    exact .checked c v ab d hcs
  | recv p =>
    rw [runPoint_recv hb hcs] at hs
    cases hs
    obtain ⟨r, rx, d, e⟩ := receive_spec p s
    rw [e]
    exact .received p r rx d hcs
  | rxWait =>
    rw [runPoint_rxWait hb hcs] at hs
    cases hs
    exact .waited hcs
  | rxTest =>
    rw [runPoint_rxTest hb hcs] at hs
    cases hs
    exact .tested hcs
  | rxNeg =>
    by_cases hm : s.mode = .none
    · simp [runPoint, hb, codeAt, hcs, hm, negByte] at hs
    · obtain ⟨b, hnb, e⟩ := runPoint_rxNeg hb hcs hm
      rw [e] at hs
      cases hs
      exact .negotiated b hnb hcs
  | rxCount =>
    rw [runPoint_rxCount hb hcs] at hs
    cases hs
    exact .counted hcs
  | rxBody =>
    rw [runPoint_rxBody hb hcs] at hs
    unfold enterBody at hs
    rw [ofExcept_eq_next_iff, memWrite_eq_ok_iff] at hs
    obtain ⟨-, rfl⟩ := hs
    exact .bodyEntered hcs
  | rxClassify =>
    obtain ⟨f, bs, ts, hf, hr⟩ := runFrame_of_runPoint hb (by simp [codeAt, hcs]) hs
    simp only [runFrame, hcs] at hr
    rw [atPoint_eq_next_iff] at hr
    obtain ⟨hsize, rfl⟩ := hr
    have : s.bsize = bs := by
      simp only [Bool.and_eq_true, beq_iff_eq] at hsize
      exact hsize.1
    subst this
    exact .classified f hcs hf
  | rxStore =>
    rw [runPoint_rxStore hb hcs] at hs
    unfold storePacket at hs
    cases hl : memRead 3 s.storeCount s with
    | error e => simp [hl] at hs
    | ok l =>
      simp only [hl] at hs
      cases hs
      exact .stored l hcs ((memRead_eq_ok_iff _ _ _ _).mp hl)
  | ack site =>
    rw [runPoint_ack hb hcs] at hs
    cases hs
    exact .acked site hcs
  | nak =>
    rw [runPoint_nak hb hcs] at hs
    cases hs
    exact .naked hcs
  | can3 k o =>
    rw [runPoint_can3 hb hcs] at hs
    cases hs
    exact .cancelled k o hcs
  | flush site =>
    rw [runPoint_flush hb hcs] at hs
    cases hs
    exact .flushed site hcs
  | finish o =>
    rw [runPoint_finish hb hcs] at hs
    cases hs
    exact .finished o hcs
  | txNegTest =>
    rw [runPoint_txNegTest hb hcs] at hs
    cases hs
    exact .negotiationTested hcs
  | txBlock =>
    rw [runPoint_txBlock hb hcs] at hs
    cases hs
    exact .blockChosen hcs
  | txFetch =>
    rw [runPoint_txFetch hb hcs] at hs
    obtain ⟨l, src, d, e, -⟩ := drawFetch_spec s
    unfold fetchBlock at hs
    simp only [e] at hs
    split at hs
    · cases hs
    · rename_i hlen
      split at hs
      · rename_i hc
        obtain ⟨hctrl, rfl⟩ := hc
        cases hs
        exact .fetchedNothing src d hcs hctrl
      · rename_i hc
        unfold assembleFrame at hs
        rw [ofExcept_eq_next_iff, memWrite_eq_ok_iff] at hs
        obtain ⟨hw, rfl⟩ := hs
        exact .built l src d hcs (not_lt.mp hlen) (fun h1 h2 => hc ⟨h1, h2⟩) (by rw [Nat.zero_add] at hw; exact hw)
  | txCapTest =>
    rw [runPoint_txCapTest hb hcs] at hs
    cases hs
    exact .capTested hcs
  | txSend i =>
    obtain ⟨f, bs, ts, hf, hr⟩ := runFrame_of_runPoint hb (by simp [codeAt, hcs]) hs
    simp only [runFrame, hcs] at hr
    cases hfi : f[i]? with
    | none => simp [hfi] at hr
    | some b =>
      simp only [hfi] at hr
      rw [atPoint_eq_next_iff] at hr
      obtain ⟨-, rfl⟩ := hr
      obtain ⟨hlen, hread⟩ := (Memory.readList_eq_some_iff _ _ _ _).mp hf
      have hlt : i < f.length := (List.getElem?_eq_some_iff.mp hfi).1
      have := hread i (by omega)
      rw [Nat.zero_add, hfi] at this
      exact .frameByteSent i b hcs this
  | txAcked =>
    rw [runPoint_txAcked hb hcs] at hs
    cases hs
    exact .packetAcked hcs
  | txEot =>
    rw [runPoint_txEotPhase hb hcs] at hs
    cases hs
    exact .eotEntered hcs
  | txEotTest =>
    rw [runPoint_txEotTest hb hcs] at hs
    cases hs
    exact .eotTested hcs
  | txSendEot =>
    rw [runPoint_txSendEot hb hcs] at hs
    cases hs
    exact .eotSent hcs
  | answer p r =>
    cases p with
    | rxHdr =>
      have ha : s.answering .rxHdr = true := (answering_iff _ _).mpr ⟨r, hcs⟩
      rw [runPoint_rxHdr hb hcs] at hs
      unfold decodeHdr at hs
      (repeat' split at hs) <;>
        simp only [exec, execRxHdrOther, execRxHdrSoh, execRxHdrStx, execRxHdrEot, execRxHdrCan, ha,
          atPoint_true] at hs <;>
        cases hs
      · exact .headerOther _ hcs
      · exact .header .small _ hcs
      · exact .header .large _ hcs
      · exact .headerEot _ hcs
      · exact .headerCan _ hcs
      · exact .headerOther _ hcs
    | rxCan =>
      rw [runPoint_rxCan hb hcs] at hs
      cases hs
      exact .secondCanRx r hcs
    | rxBody k =>
      cases r with
      | timeout =>
        rw [runPoint_rxBodyTimeout hb hcs] at hs
        cases hs
        exact .bodyTimeout k hcs
      | byte b =>
        rw [runPoint_rxBodyByte hb hcs] at hs
        simp only [exec, execRxBodyByte, hcs] at hs
        rw [ofExcept_eq_next_iff, memWrite_eq_ok_iff] at hs
        obtain ⟨hw, rfl⟩ := hs
        exact .bodyByte k b hcs (by simpa using hw)
    | txNeg =>
      have ha : s.answering .txNeg = true := (answering_iff _ _).mpr ⟨r, hcs⟩
      rw [runPoint_txNeg hb hcs] at hs
      unfold decodeNeg at hs
      (repeat' split at hs) <;>
        simp only [exec, execTxNegOther, execTxNegG, execTxNegC, execTxNegNak, execTxNegCan, ha,
          atPoint_true] at hs <;>
        cases hs
      · exact .negotiationOther _ hcs
      · exact .selected .gmode (by simp) _ hcs
      · exact .selected .crc (by simp) _ hcs
      · exact .selected .arith (by simp) _ hcs
      · exact .negotiationCan _ hcs
      · exact .negotiationOther _ hcs
    | txNegCan =>
      rw [runPoint_txNegCan hb hcs] at hs
      cases hs
      exact .secondCanNeg r hcs
    | txRsp =>
      have ha : s.answering .txRsp = true := (answering_iff _ _).mpr ⟨r, hcs⟩
      rw [runPoint_txRsp hb hcs] at hs
      unfold decodeRsp at hs
      (repeat' split at hs) <;>
        simp only [exec, execTxRspOther, execTxRspAck, execTxRspCan, execTxRspNak, ha, atPoint_true] at hs <;>
        cases hs
      · exact .responseOther _ hcs
      · exact .responseAck _ hcs
      · exact .responseCan _ hcs
      · exact .responseOther _ hcs
      · exact .responseOther _ hcs
    | txRspCan =>
      rw [runPoint_txRspCan hb hcs] at hs
      cases hs
      exact .secondCanRsp r hcs
    | txEot =>
      have ha : s.answering .txEot = true := (answering_iff _ _).mpr ⟨r, hcs⟩
      rw [runPoint_txEot hb hcs] at hs
      unfold decodeEot at hs
      (repeat' split at hs) <;>
        simp only [exec, execTxEotOther, execTxEotAck, ha, atPoint_true] at hs <;>
        cases hs
      · exact .eotOther _ hcs
      · exact .eotAck _ hcs
      · exact .eotOther _ hcs

/-- Every word written to CMD does one of these. -/
theorem command_cases (w : Word) (s : State) :
    runCode (.cmdWord w) s = .next s
      ∨ runCode (.cmdWord w) s = .next (whenIdle s { s with outcome := .badCommand })
      ∨ (∃ m c, m ≠ Mode.none ∧ runCode (.cmdWord w) s = .next (whenIdle s (startReceive m c s)))
      ∨ ∃ u c, runCode (.cmdWord w) s = .next (whenIdle s (startTransmit u c s)) := by
  show exec (decodeCmd w) s = _ ∨ exec (decodeCmd w) s = _ ∨ (∃ m c, _ ∧ exec (decodeCmd w) s = _)
    ∨ ∃ u c, exec (decodeCmd w) s = _
  unfold decodeCmd
  repeat' split
  · exact .inr (.inl rfl)
  · exact .inl rfl
  · exact .inr (.inr (.inr ⟨_, _, rfl⟩))
  · exact .inr (.inl rfl)
  · exact .inr (.inr (.inl ⟨_, _, by simp, rfl⟩))
  · exact .inr (.inr (.inl ⟨_, _, by simp, rfl⟩))
  · exact .inr (.inr (.inl ⟨_, _, by simp, rfl⟩))
  · exact .inr (.inl rfl)

/-- The four registers' addresses, read backwards. -/
theorem hostReg_eq_some {width off : Nat} {r : HostReg} (h : hostReg width off = some r) :
    width = 32 ∧ off = r.offset := by
  unfold hostReg at h
  repeat' split at h
  all_goals cases h
  all_goals exact ⟨by assumption, by assumption⟩

/-- Every host access that is answered is one of these. -/
theorem hostAccess_cases {a : HostAccess} {s t : State} (h : hostAccess a s = .next t) :
    (∃ r, a = .read 32 r.offset ∧ t = s.record (.hostRd r (s.hostValue r)))
      ∨ (∃ v, a = .write 32 0x0 v ∧ runCode (.cmdWord v) (s.record (.hostWr .cmd v)) = .next t)
      ∨ (∃ v, a = .write 32 0x4 v ∧ t = { s with length := v }.record (.hostWr .length v))
      ∨ ∃ r v, a = .write 32 r.offset v ∧ (r = .status ∨ r = .count) ∧ t = s.record (.hostWr r v) := by
  unfold hostAccess at h
  cases a with
  | read w off =>
    cases hr : hostReg w off with
    | none => simp [hr] at h
    | some r =>
      simp only [hr] at h
      cases h
      obtain ⟨rfl, rfl⟩ := hostReg_eq_some hr
      exact .inl ⟨r, rfl, rfl⟩
  | write w off v =>
    cases hr : hostReg w off with
    | none => simp [hr] at h
    | some r =>
      obtain ⟨rfl, rfl⟩ := hostReg_eq_some hr
      cases r with
      | cmd =>
        simp only [hr] at h
        exact .inr (.inl ⟨v, rfl, h⟩)
      | length =>
        simp only [hr] at h
        cases h
        exact .inr (.inr (.inl ⟨v, rfl, rfl⟩))
      | status =>
        simp only [hr] at h
        cases h
        exact .inr (.inr (.inr ⟨.status, v, rfl, .inl rfl, rfl⟩))
      | count =>
        simp only [hr] at h
        cases h
        exact .inr (.inr (.inr ⟨.count, v, rfl, .inr rfl, rfl⟩))

end Sys2Proof.Machine
end

