-- ==== Sys2Proof/Laws/PerInstr.lean ====
section
/-! SUPPORT. Per-instruction laws: how many bytes each row's encoded form has on the wire or on the host bus
(spec/opcode_table.json's `format` column; spec/30_encoding.md R83, R91). -/

namespace Sys2Proof.Laws

/-- The bytes an encoded form has: a CMD word has four, a Timeout none. -/
def codeBytes : Code → Nat
  | .cmdWord _ => 4
  | .answer _ (.byte _) => 1
  | .answer _ .timeout => 0
  | .sent _ bytes => bytes.length
  | .frame bytes => bytes.length

/-- The lengths the table gives a row; the three rows that a Timeout decodes to as well have two. -/
def rowBytes : Instr → List Nat
  | .cmdNop _ => [4]
  | .cmdReceiveArith _ _ => [4]
  | .cmdReceiveCrc _ _ => [4]
  | .cmdReceiveGmode _ _ => [4]
  | .cmdTransmit _ _ _ => [4]
  | .cmdIllegal _ => [4]
  | .rxHdrSoh => [1]
  | .rxHdrStx => [1]
  | .rxHdrEot => [1]
  | .rxHdrCan => [1]
  | .rxHdrOther _ => [0, 1]
  | .rxBodyByte _ => [1]
  | .txNegG => [1]
  | .txNegC => [1]
  | .txNegNak => [1]
  | .txNegCan => [1]
  | .txNegOther _ => [0, 1]
  | .txRspAck => [1]
  | .txRspCan => [1]
  | .txRspNak => [1]
  | .txRspOther _ => [0, 1]
  | .txEotAck => [1]
  | .txEotOther _ => [0, 1]
  | .emitNegG => [1]
  | .emitNegC => [1]
  | .emitNegNak => [1]
  | .emitAck => [1]
  | .emitNak => [1]
  | .emitCan3 => [3]
  | .emitEot => [1]
  | .frameSohArith _ _ _ _ => [132]
  | .frameSohCrc _ _ _ _ => [133]
  | .frameStxArith _ _ _ _ => [1028]
  | .frameStxCrc _ _ _ _ => [1029]

/-- An answer is one byte or none. -/
theorem codeBytes_answer (p : AnswerPoint) (r : Answer) : codeBytes (.answer p r) ∈ [0, 1] := by
  cases r <;> simp [codeBytes]

namespace EncodedLength

/-- A well-formed instruction encodes to as many bytes as the table gives its row. -/
def Statement (i : Instr) : Prop := i.wf = true → codeBytes (encode i) ∈ rowBytes i

theorem cmdNop (ign : BitVec 4) : Statement (.cmdNop ign) := fun _ => .head _
theorem cmdReceiveArith (u c : Bool) : Statement (.cmdReceiveArith u c) := fun _ => .head _
theorem cmdReceiveCrc (u c : Bool) : Statement (.cmdReceiveCrc u c) := fun _ => .head _
theorem cmdReceiveGmode (u c : Bool) : Statement (.cmdReceiveGmode u c) := fun _ => .head _
theorem cmdTransmit (k : BitVec 2) (u c : Bool) : Statement (.cmdTransmit k u c) := fun _ => .head _
theorem cmdIllegal (w : Word) : Statement (.cmdIllegal w) := fun _ => .head _
theorem rxHdrSoh : Statement .rxHdrSoh := fun _ => .head _
theorem rxHdrStx : Statement .rxHdrStx := fun _ => .head _
theorem rxHdrEot : Statement .rxHdrEot := fun _ => .head _
theorem rxHdrCan : Statement .rxHdrCan := fun _ => .head _
theorem rxHdrOther (r : Answer) : Statement (.rxHdrOther r) := fun _ => codeBytes_answer _ r
theorem rxBodyByte (b : Byte) : Statement (.rxBodyByte b) := fun _ => .head _
theorem txNegG : Statement .txNegG := fun _ => .head _
theorem txNegC : Statement .txNegC := fun _ => .head _
theorem txNegNak : Statement .txNegNak := fun _ => .head _
theorem txNegCan : Statement .txNegCan := fun _ => .head _
theorem txNegOther (r : Answer) : Statement (.txNegOther r) := fun _ => codeBytes_answer _ r
theorem txRspAck : Statement .txRspAck := fun _ => .head _
theorem txRspCan : Statement .txRspCan := fun _ => .head _
theorem txRspNak : Statement .txRspNak := fun _ => .head _
theorem txRspOther (r : Answer) : Statement (.txRspOther r) := fun _ => codeBytes_answer _ r
theorem txEotAck : Statement .txEotAck := fun _ => .head _
theorem txEotOther (r : Answer) : Statement (.txEotOther r) := fun _ => codeBytes_answer _ r
theorem emitNegG : Statement .emitNegG := fun _ => .head _
theorem emitNegC : Statement .emitNegC := fun _ => .head _
theorem emitNegNak : Statement .emitNegNak := fun _ => .head _
theorem emitAck : Statement .emitAck := fun _ => .head _
theorem emitNak : Statement .emitNak := fun _ => .head _
theorem emitCan3 : Statement .emitCan3 := fun _ => .head _
theorem emitEot : Statement .emitEot := fun _ => .head _
theorem frameSohArith (q c : Byte) (p : List Byte) (t : Byte) : Statement (.frameSohArith q c p t) := by
  intro h
  simp_all [Instr.wf, encode, codeBytes, rowBytes, frameOf, Config.blkSmall]
theorem frameSohCrc (q c : Byte) (p : List Byte) (t : U16) : Statement (.frameSohCrc q c p t) := by
  intro h
  simp_all [Instr.wf, encode, codeBytes, rowBytes, frameOf, crcBytes, Config.blkSmall]
theorem frameStxArith (q c : Byte) (p : List Byte) (t : Byte) : Statement (.frameStxArith q c p t) := by
  intro h
  simp_all [Instr.wf, encode, codeBytes, rowBytes, frameOf, Config.blkLarge]
theorem frameStxCrc (q c : Byte) (p : List Byte) (t : U16) : Statement (.frameStxCrc q c p t) := by
  intro h
  simp_all [Instr.wf, encode, codeBytes, rowBytes, frameOf, crcBytes, Config.blkLarge]

end EncodedLength

end Sys2Proof.Laws
end

