-- ==== Sys2Proof/Tests/Slice0.lean ====
section
/-! SUPPORT. The model's own tests: the ill-formed terms WellFormed refuses, words written out from the encoding
tables, one small step per instruction, the spec's vectors (spec/95_test_vectors.md, named S95 below) where they are
small, and for every statement with hypotheses a state and operands that meet them (the `witness_` theorems). -/

namespace Sys2Proof.Tests

open Sys2Proof Sys2Proof.Machine

/-! ### Helpers -/

/-- The answer is exactly that next state. -/
def nextIs (r : Res) (t : State) : Bool :=
  match r with
  | .next s => s == t
  | .fault _ => false
  | .refused _ => false

/-- The answer is a next state in which p holds. -/
def nextHas (r : Res) (p : State → Bool) : Bool :=
  match r with
  | .next s => p s
  | .fault _ => false
  | .refused _ => false

/-- The decoder answers that instruction. -/
def decodes (c : Code) (i : Instr) : Bool :=
  match decode c with
  | .ok j => i == j
  | .error _ => false

/-- The decoder rejects. -/
def rejects (c : Code) (e : Reject) : Bool :=
  match decode c with
  | .ok _ => false
  | .error f => e == f

/-- A receiver session in CRC mode, 300 bytes asked for, at c. -/
def rxAt (c : Cs) : State :=
  { State.reset with busy := true, mode := .crc, neg := true, seq := 1#8, length := 300#32, limit := 300#32, cs := c }

/-- A transmitter session in CRC mode, 300 bytes due, at c. -/
def txAt (c : Cs) : State :=
  { State.reset with
    busy := true, role := .transmitting, mode := .crc, seq := 1#8, length := 300#32, limit := 300#32, cs := c
    tsize := .two }

/-- 128 zero bytes: CRC 0x0000, sum 0x00 (S95 2.1). -/
def zeros : List Byte := List.replicate 128 0#8

/-- The SOH packet of sequence 1 that carries them in CRC mode. -/
def zeroFrame : List Byte := [0x01#8, 0x01#8, 0xFE#8] ++ zeros ++ [0x00#8, 0x00#8]

/-- A receiver at c that has read that packet. -/
def rxRead (c : Cs) : State :=
  { rxAt c with neg := false, tsize := .two, hdr := 0x01#8, frame := Memory.writeList [] 0 zeroFrame }

/-- A transmitter at c that has built that packet from 128 fetched bytes. -/
def txBuilt (c : Cs) : State := { txAt c with nfetch := 128, frame := Memory.writeList [] 0 zeroFrame }

/-- The bytes 31 .. 39 of "123456789". -/
def digits : List Byte := [0x31#8, 0x32#8, 0x33#8, 0x34#8, 0x35#8, 0x36#8, 0x37#8, 0x38#8, 0x39#8]

/-- The bytes n, n+1, …, k of them. -/
def counting (n k : Nat) : List Byte := (List.range k).map (fun i => BitVec.ofNat 8 (n + i))

/-! ### WellFormed smoke: one ill-formed term per check -/

theorem test_illegal_row_needs_illegal_word : (Instr.cmdIllegal 0x00000005#32).wf = false := by decide
theorem test_hdr_other_is_no_listed_byte :
    [0x01#8, 0x02#8, 0x04#8, 0x18#8].all (fun b => !(Instr.rxHdrOther (.byte b)).wf) = true := by decide
theorem test_neg_other_is_no_listed_byte :
    [0x47#8, 0x43#8, 0x15#8, 0x18#8].all (fun b => !(Instr.txNegOther (.byte b)).wf) = true := by decide
theorem test_rsp_other_is_no_listed_byte :
    [0x06#8, 0x15#8, 0x18#8].all (fun b => !(Instr.txRspOther (.byte b)).wf) = true := by decide
theorem test_eot_other_is_no_ack : (Instr.txEotOther (.byte 0x06#8)).wf = false := by decide
theorem test_soh_arith_length : (Instr.frameSohArith 1#8 254#8 [0#8] 0#8).wf = false := by decide
theorem test_soh_crc_length : (Instr.frameSohCrc 1#8 254#8 (0#8 :: zeros) 0#16).wf = false := by decide +kernel
theorem test_stx_arith_length : (Instr.frameStxArith 1#8 254#8 zeros 0#8).wf = false := by decide +kernel
theorem test_stx_crc_length : (Instr.frameStxCrc 1#8 254#8 [] 0#16).wf = false := by decide

/-! ### Words written out from the encoding tables (30_encoding.md; S95 7.1) -/

theorem test_decode_nop :
    decodes (.cmdWord 0x00000000#32) (.cmdNop 0#4) ∧ decodes (.cmdWord 0x0000003C#32) (.cmdNop 15#4) := by decide
theorem test_decode_receive_arith :
    decodes (.cmdWord 0x00000001#32) (.cmdReceiveArith false false)
      ∧ decodes (.cmdWord 0x00000011#32) (.cmdReceiveArith true false) := by decide
theorem test_decode_receive_crc :
    decodes (.cmdWord 0x00000005#32) (.cmdReceiveCrc false false)
      ∧ decodes (.cmdWord 0x00000025#32) (.cmdReceiveCrc false true) := by decide
theorem test_decode_receive_gmode : decodes (.cmdWord 0x00000009#32) (.cmdReceiveGmode false false) := by decide
theorem test_decode_transmit :
    decodes (.cmdWord 0x0000000E#32) (.cmdTransmit 3#2 false false)
      ∧ decodes (.cmdWord 0x00000012#32) (.cmdTransmit 0#2 true false)
      ∧ decodes (.cmdWord 0x00000022#32) (.cmdTransmit 0#2 false true) := by decide
theorem test_decode_illegal :
    [0x0000000D#32, 0x00000003#32, 0x00000040#32, 0x80000005#32].all
      (fun w => decodes (.cmdWord w) (.cmdIllegal w)) = true := by decide
theorem test_decode_header_bytes :
    decodes (.answer .hdr (.byte 0x01#8)) .rxHdrSoh ∧ decodes (.answer .hdr (.byte 0x02#8)) .rxHdrStx
      ∧ decodes (.answer .hdr (.byte 0x04#8)) .rxHdrEot ∧ decodes (.answer .hdr (.byte 0x18#8)) .rxHdrCan
      ∧ decodes (.answer .hdr (.byte 0x03#8)) (.rxHdrOther (.byte 0x03#8))
      ∧ decodes (.answer .hdr .timeout) (.rxHdrOther .timeout) := by decide
theorem test_decode_body_bytes :
    decodes (.answer .body (.byte 0x04#8)) (.rxBodyByte 0x04#8) ∧ rejects (.answer .body .timeout) .bodyTimeout := by
  decide
theorem test_decode_negotiation_bytes :
    decodes (.answer .neg (.byte 0x47#8)) .txNegG ∧ decodes (.answer .neg (.byte 0x43#8)) .txNegC
      ∧ decodes (.answer .neg (.byte 0x15#8)) .txNegNak ∧ decodes (.answer .neg (.byte 0x18#8)) .txNegCan
      ∧ decodes (.answer .neg (.byte 0x06#8)) (.txNegOther (.byte 0x06#8))
      ∧ decodes (.answer .neg .timeout) (.txNegOther .timeout) := by decide
theorem test_decode_response_bytes :
    decodes (.answer .rsp (.byte 0x06#8)) .txRspAck ∧ decodes (.answer .rsp (.byte 0x18#8)) .txRspCan
      ∧ decodes (.answer .rsp (.byte 0x15#8)) .txRspNak
      ∧ decodes (.answer .rsp (.byte 0x43#8)) (.txRspOther (.byte 0x43#8))
      ∧ decodes (.answer .rsp .timeout) (.txRspOther .timeout) := by decide
theorem test_decode_eot_answers :
    decodes (.answer .eot (.byte 0x06#8)) .txEotAck
      ∧ decodes (.answer .eot (.byte 0x15#8)) (.txEotOther (.byte 0x15#8))
      ∧ decodes (.answer .eot .timeout) (.txEotOther .timeout) := by decide
theorem test_decode_sent_symbols :
    decodes (.sent .neg [0x47#8]) .emitNegG ∧ decodes (.sent .neg [0x43#8]) .emitNegC
      ∧ decodes (.sent .neg [0x15#8]) .emitNegNak ∧ decodes (.sent .ack [0x06#8]) .emitAck
      ∧ decodes (.sent .nak [0x15#8]) .emitNak ∧ decodes (.sent .can3 [0x18#8, 0x18#8, 0x18#8]) .emitCan3
      ∧ decodes (.sent .eot [0x04#8]) .emitEot ∧ rejects (.sent .neg [0x06#8]) .notASentSymbol := by decide
theorem test_decode_soh_frames :
    decodes (.frame ([0x01#8, 0x07#8, 0xF8#8] ++ zeros ++ [0xAB#8])) (.frameSohArith 0x07#8 0xF8#8 zeros 0xAB#8)
      ∧ decodes (.frame ([0x01#8, 0x07#8, 0xF8#8] ++ zeros ++ [0xE8#8, 0x0A#8]))
        (.frameSohCrc 0x07#8 0xF8#8 zeros 0xE80A#16) := by decide +kernel
theorem test_decode_stx_frames :
    decodes (.frame ([0x02#8, 0x07#8, 0xF8#8] ++ List.replicate 1024 1#8 ++ [0xAB#8]))
        (.frameStxArith 0x07#8 0xF8#8 (List.replicate 1024 1#8) 0xAB#8)
      ∧ decodes (.frame ([0x02#8, 0x07#8, 0xF8#8] ++ List.replicate 1024 1#8 ++ [0xC2#8, 0xE0#8]))
        (.frameStxCrc 0x07#8 0xF8#8 (List.replicate 1024 1#8) 0xC2E0#16) := by decide +kernel
theorem test_decode_frame_rejects :
    rejects (.frame [0x03#8, 0x01#8]) .notAFrameHeader ∧ rejects (.frame [0x01#8, 0x01#8]) .notAFrameLength
      ∧ rejects (.frame []) .notAFrameLength := by decide
theorem test_table_words :
    decodeTableWord 32 0x0D = some (.cmdIllegal 0x0000000D#32) ∧ decodeTableWord 8 0x47 = some .txNegG
      ∧ decodeTableWord 8 0x06 = some .txRspAck ∧ decodeTableWord 24 0x181818 = some .emitCan3
      ∧ decodeTableWord 24 0xFE0101 = some (.frameSohCrc 0x01#8 0xFE#8 zeros 0#16) := by decide +kernel

/-! ### The checksum engine and the validator (S95 2 and 3) -/

theorem test_crc_check_value : crc16 digits = 0x31C3#16 ∧ sum8 digits = 0xDD#8 := by decide +kernel
theorem test_crc_steps :
    crcStep 0x1234#16 0x56#8 = 0x3C40#16 ∧ crcStep 0x0000#16 0x31#8 = 0x2672#16
      ∧ crcStep 0xFFFF#16 0x00#8 = 0xE1F0#16 ∧ crcStep 0x8000#16 0x00#8 = 0x9188#16 := by decide
theorem test_crc_of_counting :
    crc16 (counting 0 128) = 0xE80A#16 ∧ sum8 (counting 0 128) = 0xC0#8 := by decide +kernel
theorem test_crc_of_nothing : crc16 [] = 0#16 ∧ sum8 [] = 0#8 := by decide
theorem test_trailer_is_big_endian : trailer .crc digits = [0x31#8, 0xC3#8] := by decide +kernel
theorem test_verify_byte_order :
    verify .crc digits [0x31#8, 0xC3#8] = true ∧ verify .crc digits [0xC3#8, 0x31#8] = false := by decide +kernel
theorem test_classify_sequences :
    (let f := fun (q c : Byte) (e : Byte) => classify .crc 128 ([0x01#8, q, c] ++ zeros ++ [0#8, 0#8]) e
     f 0x01#8 0xFE#8 1#8 = .accepted 1#8 ∧ f 0x00#8 0xFF#8 1#8 = .duplicate ∧ f 0x01#8 0xFE#8 3#8 = .malformed
      ∧ f 0xFF#8 0x00#8 0#8 = .duplicate ∧ f 0x01#8 0xFF#8 1#8 = .malformed) := by decide +kernel
theorem test_classify_bad_trailer :
    classify .crc 128 ([0x01#8, 0x01#8, 0xFE#8] ++ zeros ++ [0#8, 1#8]) 2#8 = .malformed := by decide +kernel

/-! ### STATUS and the driver's result (S95 7.2, 7.3) -/

theorem test_status_at_reset : State.reset.statusWord = 0x0000000C#32 := by decide
theorem test_status_rows :
    (rxAt .rxWait).statusWord = 0x00000105#32
      ∧ { txAt .idle with busy := false, outcome := .noFinalAck, seq := 2#8 }.statusWord = 0x00000276#32
      ∧ { State.reset with outcome := .badCommand }.statusWord = 0x0000008C#32 := by decide
theorem test_driver_results :
    { State.reset with outcome := .done, bytes := 300#32 }.driverResult = 300
      ∧ { State.reset with outcome := .badCommand }.driverResult = -8 := by decide

/-! ### One step per instruction -/

theorem test_nop_changes_nothing : nextIs (exec (.cmdNop 15#4) State.reset) State.reset = true := by decide
theorem test_receive_arith_starts :
    nextHas (exec (.cmdReceiveArith true true) { State.reset with length := 9#32 })
      (fun t => t.busy && t.mode == .arith && t.ctrl && t.seq == 0#8 && t.limit == 9#32 && !t.use1k) = true := by decide
theorem test_receive_crc_starts :
    nextHas (exec (.cmdReceiveCrc false false) State.reset)
      (fun t => t.mode == .crc && t.neg && t.seq == 1#8 && t.cs == .rxWait) = true := by decide
theorem test_receive_gmode_while_busy :
    nextIs (exec (.cmdReceiveGmode false false) (txAt .txBlock)) (txAt .txBlock) = true := by decide
theorem test_receive_gmode_starts :
    nextHas (exec (.cmdReceiveGmode false false) State.reset) (fun t => t.mode == .gmode && t.busy) = true := by decide
theorem test_transmit_starts :
    nextHas (exec (.cmdTransmit 3#2 true false) State.reset)
      (fun t => t.role == .transmitting && t.mode == .none && t.use1k && t.cs == .check (.head .txNHead)) = true := by
  decide
theorem test_illegal_sets_bad_command :
    nextHas (exec (.cmdIllegal 3#32) State.reset) (fun t => t.outcome == .badCommand && !t.busy) = true := by decide
theorem test_illegal_while_busy : nextIs (exec (.cmdIllegal 3#32) (rxAt .nak)) (rxAt .nak) = true := by decide
theorem test_soh_header :
    nextHas (exec .rxHdrSoh (rxAt (.answer .rxHdr (.byte 1#8))))
      (fun t => t.hdr == 0x01#8 && t.bsize == .small && t.cs == .rxBody) = true := by decide
theorem test_stx_header :
    nextHas (exec .rxHdrStx (rxAt (.answer .rxHdr (.byte 2#8))))
      (fun t => t.hdr == 0x02#8 && t.bsize == .large) = true := by decide
theorem test_eot_header :
    nextHas (exec .rxHdrEot (rxAt (.answer .rxHdr (.byte 4#8)))) (fun t => t.cs == .ack .eot) = true := by decide
theorem test_can_header :
    nextHas (exec .rxHdrCan (rxAt (.answer .rxHdr (.byte 24#8))))
      (fun t => t.cs == .check (.before .rxCan)) = true := by decide
theorem test_other_header :
    nextIs (exec (.rxHdrOther .timeout) (rxAt (.answer .rxHdr .timeout))) (rxAt (.check (.head .rxHead))) = true := by
  decide
theorem test_body_byte_is_stored :
    nextHas (exec (.rxBodyByte 0xAB#8) { rxAt (.answer (.rxBody 2) (.byte 0xAB#8)) with frame := [(0, 1#8)] })
      (fun t => t.frame == [(0, 1#8), (3, 0xAB#8)] && t.cs == .check (.before (.rxBody 3))) = true := by decide
theorem test_last_body_byte :
    nextHas (exec (.rxBodyByte 0xAB#8) { rxAt (.answer (.rxBody 131) (.byte 0xAB#8)) with tsize := .two })
      (fun t => t.frame == [(132, 0xAB#8)] && t.cs == .rxClassify) = true := by decide
theorem test_neg_g : nextHas (exec .txNegG (txAt (.answer .txNeg (.byte 0x47#8))))
      (fun t => t.mode == .gmode && t.cs == .txBlock) = true := by decide
theorem test_neg_c : nextHas (exec .txNegC { txAt (.answer .txNeg (.byte 0x43#8)) with mode := .none })
      (fun t => t.mode == .crc) = true := by decide
theorem test_neg_nak : nextHas (exec .txNegNak (txAt (.answer .txNeg (.byte 0x15#8))))
      (fun t => t.mode == .arith) = true := by decide
theorem test_neg_can : nextHas (exec .txNegCan (txAt (.answer .txNeg (.byte 0x18#8))))
      (fun t => t.cs == .check (.before .txNegCan)) = true := by decide
theorem test_neg_other : nextHas (exec (.txNegOther .timeout) (txAt (.answer .txNeg .timeout)))
      (fun t => t.cs == .check (.head .txNHead)) = true := by decide
theorem test_rsp_ack : nextHas (exec .txRspAck (txAt (.answer .txRsp (.byte 0x06#8))))
      (fun t => t.cs == .txAcked && t.seq == 1#8) = true := by decide
theorem test_rsp_can : nextHas (exec .txRspCan (txAt (.answer .txRsp (.byte 0x18#8))))
      (fun t => t.cs == .check (.before .txRspCan)) = true := by decide
theorem test_rsp_nak : nextHas (exec .txRspNak (txAt (.answer .txRsp (.byte 0x15#8))))
      (fun t => t.cs == .check (.head .txSHead)) = true := by decide
theorem test_rsp_other : nextHas (exec (.txRspOther .timeout) (txAt (.answer .txRsp .timeout)))
      (fun t => t.cs == .check (.head .txSHead)) = true := by decide
theorem test_eot_ack : nextHas (exec .txEotAck (txAt (.answer .txEot (.byte 0x06#8))))
      (fun t => t.cs == .finish .done) = true := by decide
theorem test_eot_other : nextHas (exec (.txEotOther (.byte 0x15#8)) (txAt (.answer .txEot (.byte 0x15#8))))
      (fun t => t.cs == .check (.head .txEHead)) = true := by decide
theorem test_emit_neg_g : nextHas (exec .emitNegG { rxAt .rxNeg with mode := .gmode })
      (fun t => t.hist == [.tx 0x47#8] && t.cs == .rxCount) = true := by decide
theorem test_emit_neg_c : nextHas (exec .emitNegC (rxAt .rxNeg)) (fun t => t.hist == [.tx 0x43#8]) = true := by decide
theorem test_emit_neg_nak : nextHas (exec .emitNegNak { rxAt .rxNeg with mode := .arith })
      (fun t => t.hist == [.tx 0x15#8]) = true := by decide
theorem test_emit_ack : nextHas (exec .emitAck (rxAt (.ack .eot)))
      (fun t => t.hist == [.tx 0x06#8] && t.cs == .finish .done) = true := by decide
theorem test_emit_ack_in_control_mode : nextHas (exec .emitAck { rxAt (.ack .accepted) with ctrl := true })
      (fun t => t.cs == .finish .done) = true := by decide
theorem test_emit_nak : nextHas (exec .emitNak (rxAt .nak))
      (fun t => t.hist == [.tx 0x15#8] && t.cs == .rxWait) = true := by decide
theorem test_emit_can3 : nextHas (exec .emitCan3 (rxAt (.can3 0 .syncError)))
      (fun t => t.hist == [.tx 0x18#8] && t.cs == .can3 1 .syncError) = true := by decide
theorem test_emit_last_can : nextHas (exec .emitCan3 (rxAt (.can3 2 .syncError)))
      (fun t => t.cs == .finish .syncError) = true := by decide
theorem test_emit_eot : nextHas (exec .emitEot (txAt .txSendEot))
      (fun t => t.hist == [.tx 0x04#8] && t.eotn == 1 && t.cs == .check (.before .txEot)) = true := by decide
theorem test_soh_arith_is_classified :
    nextHas (exec (.frameSohArith 1#8 0xFE#8 zeros 0x01#8) { rxAt .rxClassify with mode := .arith })
      (fun t => t.guard == 1 && t.cs == .nak) = true := by decide +kernel
theorem test_soh_crc_is_accepted :
    nextHas (exec (.frameSohCrc 1#8 0xFE#8 zeros 0#16) (rxRead .rxClassify))
      (fun t => t.guard == 0 && t.cs == .rxStore) = true := by decide +kernel
theorem test_soh_crc_sends : nextHas (exec (.frameSohCrc 1#8 0xFE#8 zeros 0xE80A#16) (txBuilt (.txSend 132)))
      (fun t => t.hist == [.tx 0x0A#8] && t.tries == 1 && t.cs == .check (.before .txRsp)) = true := by decide +kernel
theorem test_stx_arith_sends :
    nextHas (exec (.frameStxArith 1#8 0xFE#8 (List.replicate 1024 7#8) 0#8)
        { txAt (.txSend 3) with bsize := .large, tsize := .one })
      (fun t => t.hist == [.tx 0x07#8] && t.cs == .txSend 4) = true := by decide +kernel
theorem test_stx_crc_last_duplicate :
    nextHas (exec (.frameStxCrc 1#8 0xFE#8 (List.replicate 1024 0#8) 0#16)
        { rxAt .rxClassify with bsize := .large, tsize := .two, seq := 2#8, guard := 24 })
      (fun t => t.guard == 25 && t.cs == .flush .retryExceeded) = true := by decide +kernel

/-! ### Ports that keep the block waiting (R337) -/

theorem test_hanging_send_waits :
    nextIs (step { rxAt .nak with hung := true }) { rxAt .nak with hung := true } = true
      ∧ nextHas (step { rxAt .nak with sched := [.hang] }) (fun t => t.hung && t.cs == .nak && t.hist == []) = true := by
  decide
theorem test_reset_ends_a_hang :
    nextHas (step { rxAt .nak with hung := true, sched := [.reset] }) (fun t => !t.hung && !t.busy) = true := by decide
theorem test_abort_sample_does_not_wait :
    nextHas (step { rxAt (.check (.head .rxHead)) with sched := [.wait], abort := [false] })
      (fun t => t.cs == .rxTest && t.sched == []) = true := by decide

/-! ### Witnesses: encodings, checksum, validator

For every statement of Certificates/Slice0/Obligations.lean with hypotheses, the theorem of its name shows a state and
operands that meet all of them; a statement with several clauses has one for each. -/

theorem witness_DecodeOfEncodeIsIdentity :
    (Instr.cmdIllegal 0x00000040#32).wf = true ∧ (Instr.rxHdrOther .timeout).wf = true
      ∧ (Instr.txNegOther (.byte 0xFF#8)).wf = true ∧ (Instr.frameSohCrc 1#8 0#8 zeros 0xFFFF#16).wf = true
      ∧ (Instr.frameStxArith 0#8 0#8 (List.replicate 1024 9#8) 0#8).wf = true := by decide +kernel
theorem witness_EncodeOfDecodeIsIdentity :
    (∃ i, decode (.cmdWord 0xFFFFFFFF#32) = .ok i) ∧ (∃ i, decode (.answer .eot .timeout) = .ok i)
      ∧ (∃ i, decode (.sent .can3 [0x18#8, 0x18#8, 0x18#8]) = .ok i) ∧ ∃ i, decode (.frame zeroFrame) = .ok i :=
  ⟨⟨_, rfl⟩, ⟨_, rfl⟩, ⟨_, rfl⟩, ⟨_, rfl⟩⟩
theorem witness_CommandWordTable :
    (let ok := fun (w : Word) (p : Nat → Bool) => decide (w.toNat < 64) && p w.toNat
     ok 0x3C#32 (fun n => n % 4 == 0) && ok 0x31#32 (fun n => n % 4 == 1 && n / 4 % 4 == 0)
      && ok 0x35#32 (fun n => n % 4 == 1 && n / 4 % 4 == 1) && ok 0x39#32 (fun n => n % 4 == 1 && n / 4 % 4 == 2)
      && ok 0x29#32 (fun n => n % 4 == 1 && n / 4 % 4 != 3) && ok 0x3E#32 (fun n => n % 4 == 2)) = true := by decide
theorem witness_IllegalCommandWords :
    State.reset.busy = false ∧ (rxAt .rxWait).busy = true ∧ (0xFFFFFFC0#32 : Word).toNat / 64 ≠ 0
      ∧ (0x3F#32 : Word).toNat % 4 = 3 ∧ (0x0D#32 : Word).toNat % 4 = 1 ∧ (0x0D#32 : Word).toNat / 4 % 4 = 3 := by decide
theorem witness_OnlyTheBuiltTrailerVerifies :
    Mode.arith ≠ .none ∧ [0xDD#8].length = (trailer .arith digits).length ∧ Mode.gmode ≠ .none
      ∧ Mode.gmode ≠ .arith ∧ [0xC3#8, 0x31#8].length = (trailer .gmode digits).length := by decide +kernel
theorem witness_ClassifyEveryFrame :
    Mode.arith ≠ .none ∧ [0#8].length = Mode.arith.trailerSize.bytes ∧ Mode.crc ≠ .none
      ∧ [0#8, 0#8].length = Mode.crc.trailerSize.bytes := by decide
theorem witness_OneFlippedBitIsMalformed :
    Mode.crc ≠ .none ∧ 1 ≤ 132 ∧ 132 < (validFrame .crc 0x01#8 1#8 zeros).length ∧ 7 < 8 ∧ Mode.arith ≠ .none
      ∧ 131 < (validFrame .arith 0x01#8 1#8 zeros).length := by decide +kernel

/-! ### Witnesses: the host interface, reset and termination -/

theorem witness_StatusWordFields :
    (rxAt .rxWait).busy = true ∧ (rxAt .rxWait).role = .receiving ∧ (rxAt .rxWait).mode = .crc
      ∧ (rxAt .rxWait).outcome = .none ∧ (rxAt .rxWait).seq = 1#8
      ∧ (let s := { rxAt .idle with busy := false, outcome := .done, seq := 4#8 }
         s.busy = false ∧ s.role = .receiving ∧ s.mode = .crc ∧ s.outcome = .done ∧ s.seq = 4#8) := by decide
theorem witness_HostReadsHaveNoSideEffect :
    [0x0, 0x4, 0x8, 0xC].all (fun off =>
      let s := { rxAt .nak with sched := [.host (.read 32 off), .seq] }
      s.computing == false && s.sched == .host (.read 32 off) :: [.seq]) = true := by decide
theorem witness_HostWrites :
    [0x0, 0x4, 0x8, 0xC].all (fun off =>
      let s := { State.reset with sched := [.host (.write 32 off 5#32)] }
      s.computing == false && s.sched == [.host (.write 32 off 5#32)]) = true := by decide
theorem witness_UndefinedHostAccessesAreRefused : ∃ width off, width = 32 ∧ (off = 0x0 ∨ off = 0x4 ∨ off = 0x8 ∨ off = 0xC) :=
  ⟨32, 0xC, by decide⟩
theorem witness_StartCommandsStartASession : State.reset.busy = false := by decide
theorem witness_ResetValues :
    (let s := { rxAt .nak with sched := [.reset, .seq], bytes := 7#32 }
     s.computing = false ∧ s.sched = .reset :: [.seq] ∧ nextHas (step s) (fun _ => true) = true) := by decide
theorem witness_TerminateWritesOutcomeAndBusy :
    (rxAt (.finish .done)).busy = true ∧ (rxAt (.finish .done)).cs = .finish .done
      ∧ (rxAt (.finish .done)).turn = .seq := by decide
theorem witness_AbortSampleEndsTheSession :
    (let s := { rxAt (.check (.head .rxHead)) with abort := [true, false] }
     s.busy = true ∧ s.cs = .check (.head .rxHead) ∧ s.abort = true :: [false] ∧ s.sched = []
      ∧ s.hung = false) := by decide
theorem witness_CheckPointsAndReads :
    [Cs.check (.head .txEHead), .check (.before (.rxBody 0)), .check (.after .rxHdr .timeout)].all (fun c =>
        let s := { rxAt c with abort := [false] }
        s.busy && s.turn == .seq && s.abort == [false] && s.rx == [] && s.cs == c) = true
      ∧ (let s := { rxAt (.recv .txRspCan) with rx := [.timeout] }
         s.busy = true ∧ s.turn = .seq ∧ s.cs = .recv .txRspCan ∧ s.rx = .timeout :: [] ∧ s.abort = []) := by decide

/-! ### Witnesses: answers and the receiver -/

theorem witness_AnswerRowEffects :
    (rxAt (.answer .rxHdr .timeout)).cs = .answer .rxHdr .timeout
      ∧ (txAt (.answer .txNeg .timeout)).cs = .answer .txNeg .timeout
      ∧ (txAt (.answer .txRsp .timeout)).cs = .answer .txRsp .timeout
      ∧ (txAt (.answer .txEot .timeout)).cs = .answer .txEot .timeout := by decide
theorem witness_AnswersDecide :
    [ReadPoint.rxHdr, .txNeg, .txRsp, .txEot].all (fun p =>
      let s := rxAt (.answer p (.byte 0x18#8))
      s.busy && s.cs == .answer p (.byte 0x18#8)) = true := by decide
theorem witness_HeaderWaitExhaustion :
    (rxAt .rxWait).busy = true ∧ (rxAt .rxWait).cs = .rxWait ∧ (rxAt .rxTest).att ≠ 16
      ∧ [Mode.gmode, .crc, .arith].all (fun m =>
        let s := { rxAt .rxTest with att := 16, mode := m }
        s.busy && s.cs == .rxTest && s.att == 16 && s.neg && s.mode == m) = true
      ∧ { rxAt .rxTest with att := 16, neg := false }.neg = false ∧ (rxAt .rxCount).cs = .rxCount := by decide
theorem witness_EmittedSymbolRows :
    [Mode.gmode, .crc, .arith].all (fun m => { rxAt .rxNeg with mode := m }.cs == .rxNeg) = true
      ∧ (rxAt (.ack .accepted)).cs = .ack .accepted ∧ (rxAt .nak).cs = .nak
      ∧ (rxAt (.can3 2 .syncError)).cs = .can3 2 .syncError ∧ (txAt .txSendEot).cs = .txSendEot := by decide
theorem witness_EotEndsTheReceiverDone :
    (let s := rxAt (.answer .rxHdr (.byte 0x04#8))
     s.busy = true ∧ s.sched = [] ∧ s.hung = false ∧ s.cs = .answer .rxHdr (.byte 0x04#8)) := by decide
theorem witness_CanCanCancelsTheReceiver :
    (rxAt (.answer .rxHdr (.byte 0x18#8))).busy = true
      ∧ (rxAt (.answer .rxHdr (.byte 0x18#8))).cs = .answer .rxHdr (.byte 0x18#8)
      ∧ (rxAt (.answer .rxCan (.byte 0x18#8))).cs = .answer .rxCan (.byte 0x18#8)
      ∧ (rxAt (.answer .rxCan (.byte 0x18#8))).sched = []
      ∧ (rxAt (.answer .rxCan (.byte 0x18#8))).hung = false
      ∧ (rxAt (.answer .rxCan .timeout)).cs = .answer .rxCan .timeout ∧ Answer.timeout ≠ .byte 0x18#8 := by decide
theorem witness_BodyEntryEndsNegotiation : (rxAt .rxBody).busy = true ∧ (rxAt .rxBody).cs = .rxBody := by decide
theorem witness_BodyByteIsStored :
    (rxAt (.answer (.rxBody 1027) (.byte 5#8))).cs = .answer (.rxBody 1027) (.byte 5#8) ∧ 1 + 1027 < 1029
      ∧ (rxAt (.answer (.rxBody 1028) (.byte 5#8))).cs = .answer (.rxBody 1028) (.byte 5#8) ∧ 1029 ≤ 1 + 1028 := by decide
theorem witness_BodyTimeoutIsNaked :
    (let s := rxAt (.answer (.rxBody 10) .timeout)
     s.busy = true ∧ s.sched = [] ∧ s.hung = false ∧ s.cs = .answer (.rxBody 10) .timeout) := by decide
theorem witness_FrameRowsClassify :
    (rxRead .rxClassify).cs = .rxClassify ∧ zeros.length = (rxRead .rxClassify).bsize.bytes
      ∧ (rxRead .rxClassify).bsize = .small ∧ (rxRead .rxClassify).mode = .crc ∧ (rxRead .rxClassify).tsize = .two
      ∧ (let s := { rxAt .rxClassify with mode := .arith, bsize := .large }
         s.cs = .rxClassify ∧ (List.replicate 1024 0#8).length = s.bsize.bytes ∧ s.mode = .arith ∧ s.tsize = .one
          ∧ s.bsize = .large) := by decide +kernel
theorem witness_AcceptedPacketIsDelivered :
    (let s := { rxRead .rxStore with limit := 100#32 }
     s.busy = true ∧ s.turn = .seq ∧ s.cs = .rxStore ∧ s.bytes.toNat ≤ s.limit.toNat
      ∧ s.frame.readList 3 (min s.bsize.bytes (s.limit.toNat - s.bytes.toNat)) = some (zeros.take 100)) := by
  decide +kernel
theorem witness_FatalAbortSequences :
    (rxAt (.can3 0 .syncError)).busy = true ∧ (rxAt (.can3 0 .syncError)).sched = []
      ∧ (rxAt (.can3 0 .syncError)).busy = true ∧ (rxAt (.can3 0 .syncError)).hung = false
      ∧ (rxAt (.can3 0 .syncError)).cs = .can3 0 .syncError
      ∧ (rxAt (.flush .retryExceeded)).cs = .flush .retryExceeded := by decide
theorem witness_ValidPacketReachesTheSink :
    (let n := (validFrame .crc 0x01#8 1#8 zeros).tail.length
     let s := { rxAt .rxBody with
       hdr := 0x01#8, limit := 100#32, rx := ((validFrame .crc 0x01#8 1#8 zeros).tail.map Answer.byte) ++ [Answer.timeout]
       abort := List.replicate (2 * n) false ++ [true] }
     s.busy = true ∧ s.sched = [] ∧ s.hung = false ∧ s.cs = .rxBody ∧ s.mode ≠ .none ∧ s.hdr = s.bsize.header
      ∧ s.bytes.toNat ≤ s.limit.toNat ∧ zeros.length = s.bsize.bytes
      ∧ s.rx = ((validFrame s.mode s.hdr s.seq zeros).tail.map Answer.byte) ++ [Answer.timeout]
      ∧ s.abort = List.replicate (2 * (validFrame s.mode s.hdr s.seq zeros).tail.length) false ++ [true]) := by
  decide +kernel

/-! ### Witnesses: the transmitter -/

theorem witness_CanCanCancelsTheTransmitter :
    (txAt (.answer .txNegCan (.byte 0x18#8))).busy = true ∧ (txAt (.answer .txNegCan (.byte 0x18#8))).sched = []
      ∧ (txAt (.answer .txNegCan (.byte 0x18#8))).busy = true ∧ (txAt (.answer .txNegCan (.byte 0x18#8))).hung = false
      ∧ (txAt (.answer .txNegCan (.byte 0x18#8))).cs = .answer .txNegCan (.byte 0x18#8)
      ∧ (txAt (.answer .txNegCan .timeout)).cs = .answer .txNegCan .timeout
      ∧ (txAt (.answer .txRspCan .timeout)).cs = .answer .txRspCan .timeout ∧ Answer.timeout ≠ .byte 0x18#8 := by decide
theorem witness_TransmitterExhaustion :
    [Cs.txNegTest, .txCapTest, .txEot, .txEotTest].all (fun c => (txAt c).busy && (txAt c).cs == c) = true := by decide
theorem witness_BlockSizeChoice :
    (txAt .txBlock).busy = true ∧ (txAt .txBlock).cs = .txBlock
      ∧ (txAt .txBlock).bytes.toNat ≤ (txAt .txBlock).limit.toNat := by decide
theorem witness_FetchBuildsThePacket :
    ([[0x41#8], [], List.replicate 129 0#8].all (fun l =>
      let s := { txAt .txFetch with src := [l] }
      s.busy && s.turn == .seq && s.cs == .txFetch && decide (s.bytes.toNat ≤ s.limit.toNat) && s.src == [l]) = true)
      ∧ ([0x41#8].length ≤ min 128 300 ∧ ¬ ((txAt .txFetch).ctrl = false ∧ [0x41#8] = [])) ∧ (txAt .txFetch).ctrl = false
      ∧ min 128 300 < (List.replicate 129 0#8).length := by decide +kernel
theorem witness_FrameRowsSend :
    (txBuilt (.txSend 132)).cs = .txSend 132 ∧ zeros.length = (txBuilt (.txSend 132)).bsize.bytes
      ∧ (txBuilt (.txSend 132)).tsize = .two ∧ (txBuilt (.txSend 132)).bsize = .small
      ∧ ([0x01#8, 1#8, 0xFE#8] ++ zeros ++ [0xE8#8, 0x0A#8])[132]? = some 0x0A#8
      ∧ (let s := { txAt (.txSend 0) with bsize := .large, tsize := .one }
         s.cs = .txSend 0 ∧ s.tsize = .one ∧ s.bsize = .large ∧ (List.replicate 1024 0#8).length = s.bsize.bytes
          ∧ ([s.bsize.header, 1#8, 0xFE#8] ++ List.replicate 1024 0#8 ++ [0#8])[0]? = some 0x02#8) := by decide +kernel
theorem witness_WholeFrameIsSentBackToBack :
    (let s := txBuilt (.txSend 0)
     s.busy = true ∧ s.sched = [] ∧ s.hung = false ∧ s.cs = .txSend 0 ∧ zeroFrame.length = 3 + s.bsize.bytes + s.tsize.bytes
      ∧ s.frame.readList 0 zeroFrame.length = some zeroFrame ∧ zeroFrame[0]? = some s.bsize.header) := by decide +kernel
theorem witness_AcknowledgedPacketCounts : (txAt .txAcked).busy = true ∧ (txAt .txAcked).cs = .txAcked := by decide

/-! ### Witnesses: the whole machine -/

/-- The clauses of the invariant that are decided by the registers alone. -/
def registersOk (s : State) : Prop :=
  (s.busy = true ↔ s.cs ≠ .idle) ∧ (s.busy = true → s.outcome = .none) ∧ s.bytes.toNat ≤ s.limit.toNat
    ∧ s.guard ≤ Config.rxRetryCap ∧ s.att ≤ Config.negAttempts ∧ s.tries ≤ Config.txRetryCap
    ∧ s.eotn ≤ Config.eotTries ∧ s.nfetch ≤ Config.blkLarge ∧ s.frame.wf ∧ (s.hung = true → s.onPort = true)

theorem inv_of_registersOk {s : State} (h : registersOk s) (hp : s.pointInv) : s.Inv :=
  ⟨h.1, h.2.1, h.2.2.1, h.2.2.2.1, h.2.2.2.2.1, h.2.2.2.2.2.1, h.2.2.2.2.2.2.1, h.2.2.2.2.2.2.2.1,
    h.2.2.2.2.2.2.2.2.1, h.2.2.2.2.2.2.2.2.2, hp⟩

/-- A receiver at the header test has the invariant. -/
theorem inv_rxTest : (rxAt .rxTest).Inv :=
  inv_of_registersOk (by unfold registersOk; decide) (show _ ∧ _ ∧ _ from by decide)

/-- A receiver at the negotiation byte has the invariant. -/
theorem inv_rxNeg : (rxAt .rxNeg).Inv :=
  inv_of_registersOk (by unfold registersOk; decide) (show (_ ∧ _ ∧ _) ∧ _ ∧ _ from by decide)

/-- A receiver at the end of its session has the invariant. -/
theorem inv_rxFinish : (rxAt (.finish .done)).Inv :=
  inv_of_registersOk (by unfold registersOk; decide) (show _ = _ from by decide)

/-- Every byte of the packet that was read is in FRAME. -/
theorem written_rxRead (c : Cs) : (rxRead c).written 133 := by
  have h : ∀ i : Fin 133, ((Memory.writeList [] 0 zeroFrame).read i).isSome = true := by decide +kernel
  exact fun i hi => h ⟨i, hi⟩

/-- A receiver that has read the packet has the invariant where it classifies it and where it stores it. -/
theorem inv_rxRead : (rxRead .rxClassify).Inv ∧ (rxRead .rxStore).Inv :=
  ⟨inv_of_registersOk (by unfold registersOk; decide +kernel)
      (show ((_ ∧ _ ∧ _) ∧ _ ∧ _ ∧ _) ∧ _ from ⟨by decide +kernel, written_rxRead _⟩),
    inv_of_registersOk (by unfold registersOk; decide +kernel)
      (show ((_ ∧ _ ∧ _) ∧ _ ∧ _ ∧ _) ∧ _ from ⟨by decide +kernel, written_rxRead _⟩)⟩

/-- A transmitter has the invariant where it sends byte 132 of its packet and where the packet is acknowledged. -/
theorem inv_txBuilt : (txBuilt (.txSend 132)).Inv ∧ (txBuilt .txAcked).Inv := by
  have hf : (Memory.writeList [] 0 zeroFrame).readList 0 133 = some (builtFrame zeros (txBuilt .txAcked)) := by
    decide +kernel
  have hl : zeros.length = 128 := by decide +kernel
  exact ⟨inv_of_registersOk (by unfold registersOk; decide +kernel)
      (show ((_ ∧ _) ∧ _ ∧ _ ∧ _ ∧ _) ∧ _ ∧ _ from
        ⟨⟨by decide, by decide, by decide, by decide, zeros, hl, hf⟩, by decide, by decide⟩),
    inv_of_registersOk (by unfold registersOk; decide +kernel)
      (show (_ ∧ _) ∧ _ ∧ _ ∧ _ ∧ _ from ⟨by decide, by decide, by decide, by decide, zeros, hl, hf⟩)⟩

/-- A transmitter has the invariant where it fetches. -/
theorem inv_txFetch : { txAt .txFetch with src := [[0x41#8]] }.Inv :=
  inv_of_registersOk (by unfold registersOk; decide) (show (_ ∧ _) ∧ _ ∧ (_ → _) from by decide)

/-- A transmitter that waits for its negotiation byte has the invariant. -/
theorem inv_txNeg : { txAt (.answer .txNeg (.byte 0x43#8)) with mode := .none }.Inv :=
  inv_of_registersOk (by unfold registersOk; decide) (show _ ∧ _ from by decide)

theorem exists_next {r : Res} {p : State → Bool} (h : nextHas r p = true) : ∃ t, r = .next t ∧ p t = true := by
  cases r with
  | next t => exact ⟨t, rfl, h⟩
  | fault f => exact absurd h (by simp [nextHas])
  | refused x => exact absurd h (by simp [nextHas])

theorem witness_FrameAndSizesStayUntilTheNextPacket :
    ∃ s t : State, s.Inv ∧ s.busy = true ∧ s.role = .transmitting ∧ step s = .next t ∧ t.busy = true
      ∧ s.cs ≠ .txFetch ∧ s.cs ≠ .txBlock := by
  obtain ⟨t, ht, hb⟩ := exists_next (r := step (txBuilt (.txSend 132))) (p := fun t => t.busy) (by decide +kernel)
  exact ⟨_, t, inv_txBuilt.1, rfl, rfl, ht, hb, by decide, by decide⟩
theorem witness_StepKeepsTheInvariant : ∃ s t : State, s.Inv ∧ step s = .next t := by
  obtain ⟨t, ht, _⟩ := exists_next (r := step (rxRead .rxStore)) (p := fun t => t.seq == 2#8) (by decide +kernel)
  exact ⟨_, t, inv_rxRead.2, ht⟩
theorem witness_StepNeverStops : ∃ s : State, s.Inv ∧ s.legalMove ∧ s.cs = .txFetch :=
  ⟨_, inv_txFetch, .inr (show _ → _ from by decide), rfl⟩
theorem witness_OneEventAtATime :
    (∃ s t : State, step s = .next t ∧ s.computing = false) ∧ ∃ s t : State, step s = .next t ∧ s.computing = true := by
  obtain ⟨t, ht, _⟩ := exists_next (r := step (rxAt .nak)) (p := fun _ => true) (by decide)
  obtain ⟨u, hu, _⟩ := exists_next (r := step (rxAt .rxWait)) (p := fun _ => true) (by decide)
  exact ⟨⟨_, t, ht, by decide⟩, ⟨_, u, hu, by decide⟩⟩
theorem witness_OnlyAStartCommandLeavesIdle :
    (∃ s t : State, s.Inv ∧ s.busy = false ∧ step s = .next t ∧ t.busy = true)
      ∧ (∃ s t : State, s.Inv ∧ s.busy = false ∧ step s = .next t ∧ (∀ a rest, s.sched ≠ .host a :: rest)
        ∧ ∀ rest, s.sched ≠ .reset :: rest)
      ∧ ∃ s t : State, s.Inv ∧ s.busy = false ∧ step s = .next t ∧ t.busy = false ∧ t.outcome = .badCommand := by
  have hI : ∀ l : List Turn, { State.reset with sched := l }.Inv := fun l =>
    inv_of_registersOk (s := { State.reset with sched := l })
      (show registersOk State.reset from by unfold registersOk; decide) (show True from trivial)
  obtain ⟨t, ht, hb⟩ := exists_next
    (r := step { State.reset with sched := [HostReg.cmd.wr 0x3E#32] }) (p := fun t => t.busy) (by decide)
  obtain ⟨u, hu, _⟩ := exists_next (r := step { State.reset with sched := [.hang] }) (p := fun t => !t.hung) (by decide)
  obtain ⟨v, hv, hw⟩ := exists_next (r := step { State.reset with sched := [HostReg.cmd.wr 0x0D#32] })
    (p := fun t => !t.busy && t.outcome == .badCommand) (by decide)
  have hw := Bool.and_eq_true_iff.mp hw
  exact ⟨⟨_, t, hI _, rfl, ht, hb⟩, ⟨_, u, hI _, rfl, hu, by simp, by simp⟩,
    ⟨_, v, hI _, rfl, hv, by simpa using hw.1, eq_of_beq hw.2⟩⟩
theorem witness_SessionConstants :
    ∃ s t : State, s.Inv ∧ s.busy = true ∧ step s = .next t ∧ t.busy = true := by
  obtain ⟨t, ht, hb⟩ := exists_next (r := step (rxAt .rxTest)) (p := fun t => t.busy) (by decide)
  exact ⟨_, t, inv_rxTest, rfl, ht, hb⟩
theorem witness_ModeOnlyDowngrades :
    ∃ s t : State, s.Inv ∧ s.busy = true ∧ step s = .next t ∧ t.busy = true ∧ s.mode = .none ∧ t.mode = .crc := by
  obtain ⟨t, ht, hb⟩ := exists_next (r := step { txAt (.answer .txNeg (.byte 0x43#8)) with mode := .none })
    (p := fun t => t.busy && t.mode == .crc) (by decide)
  have hb := Bool.and_eq_true_iff.mp hb
  exact ⟨_, t, inv_txNeg, rfl, ht, hb.1, rfl, by simpa using hb.2⟩
theorem witness_BytesAndSeqAdvanceTogether :
    ∃ s t : State, s.Inv ∧ s.busy = true ∧ step s = .next t ∧ t.busy = true ∧ t.bytes = 128#32 := by
  obtain ⟨t, ht, hb⟩ := exists_next (r := step (txBuilt .txAcked)) (p := fun t => t.busy && t.bytes == 128#32)
    (by decide +kernel)
  have hb := Bool.and_eq_true_iff.mp hb
  exact ⟨_, t, inv_txBuilt.2, rfl, ht, hb.1, by simpa using hb.2⟩
theorem witness_GuardCountsBadPackets :
    (∃ s t : State, s.Inv ∧ s.busy = true ∧ step s = .next t ∧ t.busy = true ∧ s.cs = .rxStore)
      ∧ ∃ s t : State, s.Inv ∧ s.busy = true ∧ step s = .next t ∧ t.busy = true ∧ s.cs = .rxClassify
        ∧ t.cs = .rxStore := by
  obtain ⟨t, ht, hb⟩ := exists_next (r := step (rxRead .rxStore)) (p := fun t => t.busy) (by decide +kernel)
  obtain ⟨u, hu, hc⟩ := exists_next (r := step (rxRead .rxClassify)) (p := fun t => t.busy && t.cs == .rxStore)
    (by decide +kernel)
  have hc := Bool.and_eq_true_iff.mp hc
  exact ⟨⟨_, t, inv_rxRead.2, rfl, ht, hb, rfl⟩, ⟨_, u, inv_rxRead.1, rfl, hu, hc.1, rfl, eq_of_beq hc.2⟩⟩
theorem witness_StoreAndFetchWhereAllowed :
    (∃ s t : State, s.Inv ∧ step s = .next t ∧ ∃ l, t.hist = .store l :: s.hist)
      ∧ ∃ s t : State, s.Inv ∧ step s = .next t ∧ ∃ c l, t.hist = .fetch c l :: s.hist := by
  obtain ⟨t, ht, h⟩ := exists_next (r := step (rxRead .rxStore)) (p := fun t => t.hist == [.store zeros])
    (by decide +kernel)
  obtain ⟨u, hu, g⟩ := exists_next (r := step { txAt .txFetch with src := [[0x41#8]] })
    (p := fun t => t.hist == [.fetch 128 [0x41#8]]) (by decide +kernel)
  exact ⟨⟨_, t, inv_rxRead.2, ht, zeros, eq_of_beq h⟩, ⟨_, u, inv_txFetch, hu, 128, [0x41#8], eq_of_beq g⟩⟩
theorem witness_SentBytesByContext :
    (∃ s t : State, s.Inv ∧ step s = .next t ∧ t.hist = .tx 0x43#8 :: s.hist)
      ∧ ∃ s t : State, s.Inv ∧ step s = .next t ∧ t.hist = .tx 0x00#8 :: s.hist := by
  obtain ⟨t, ht, h⟩ := exists_next (r := step (rxAt .rxNeg)) (p := fun t => t.hist == [.tx 0x43#8]) (by decide)
  obtain ⟨u, hu, g⟩ := exists_next (r := step (txBuilt (.txSend 132))) (p := fun t => t.hist == [.tx 0x00#8])
    (by decide +kernel)
  exact ⟨⟨_, t, inv_rxNeg, ht, eq_of_beq h⟩, ⟨_, u, inv_txBuilt.1, hu, eq_of_beq g⟩⟩
theorem witness_SessionOutcomesByRole :
    ∃ s t : State, s.Inv ∧ s.busy = true ∧ step s = .next t ∧ t.busy = false := by
  obtain ⟨t, ht, hb⟩ := exists_next (r := step (rxAt (.finish .done))) (p := fun t => !t.busy) (by decide)
  exact ⟨_, t, inv_rxFinish, rfl, ht, by simpa using hb⟩
theorem witness_HostCannotDisturbASession :
    ∃ s t : State, ∃ a, s.busy = true ∧ s.computing = false ∧ s.turn = .host a ∧ step s = .next t := by
  obtain ⟨t, ht, _⟩ := exists_next
    (r := step { rxAt .nak with sched := [HostReg.length.wr 9#32] }) (p := fun _ => true) (by decide)
  exact ⟨_, t, _, rfl, by decide, rfl, ht⟩
theorem witness_StepRunsTheDecodedInstruction :
    ((rxAt (.answer .rxHdr .timeout)).busy = true ∧ (rxAt (.answer .rxHdr .timeout)).cs = .answer .rxHdr .timeout
        ∧ decode (.answer .hdr .timeout) = .ok (.rxHdrOther .timeout))
      ∧ ((rxRead .rxClassify).frame.readList 0 (3 + 128 + 2) = some zeroFrame
        ∧ decode (.frame zeroFrame) = .ok (.frameSohCrc 1#8 0xFE#8 zeros 0#16))
      ∧ ((rxAt .rxNeg).turn = .seq ∧ negByte (rxAt .rxNeg).mode = some 0x43#8
        ∧ decode (.sent .neg [0x43#8]) = .ok .emitNegC)
      ∧ ((txBuilt (.txSend 132)).turn = .seq ∧ (txBuilt (.txSend 132)).cs = .txSend 132)
      ∧ (let s := { State.reset with sched := [HostReg.cmd.wr 5#32] }
         s.computing = false ∧ s.sched = [.host (.write 32 0x0 5#32)]
          ∧ decode (.cmdWord 5#32) = .ok (.cmdReceiveCrc false false)) :=
  ⟨⟨rfl, rfl, rfl⟩, ⟨by decide +kernel, rfl⟩, ⟨rfl, rfl, rfl⟩, ⟨rfl, rfl⟩, rfl, rfl, rfl⟩
theorem witness_PlacedInstructionRunsNext :
    decodeTableWord 32 0x25 = some (.cmdReceiveCrc false true) ∧ decodeTableWord 8 0x04 = some .rxHdrEot
      ∧ decodeTableWord 24 0x181818 = some .emitCan3
      ∧ decodeTableWord 1056 1 = some (.frameSohArith 0#8 0#8 zeros 0#8) := by decide +kernel
theorem witness_RowsStopAwayFromTheirPoint :
    (State.reset.cs = .idle ∧ ∀ x, State.reset.cs ≠ .answer .rxHdr x)
      ∧ ((∀ k x, State.reset.cs ≠ .answer (.rxBody k) x) ∧ ∀ k o, State.reset.cs ≠ .can3 k o)
      ∧ State.reset.cs ≠ .rxNeg ∧ (rxAt .rxNeg).mode ≠ .gmode ∧ { rxAt .rxNeg with mode := .arith }.mode ≠ .crc
      ∧ (∀ x, State.reset.cs ≠ .ack x) ∧ State.reset.cs ≠ .nak ∧ State.reset.cs ≠ .txSendEot
      ∧ State.reset.cs ≠ .rxClassify ∧ ∀ n, State.reset.cs ≠ .txSend n := by
  simp [State.reset, rxAt]
theorem witness_ReceiverWaitsEnd :
    (∃ s : State, s.Inv ∧ s.busy = true ∧ s.undisturbed ∧ s.cs = .rxWait)
      ∧ ∃ s : State, s.Inv ∧ s.busy = true ∧ s.undisturbed ∧ s.cs = .rxBody :=
  ⟨⟨rxAt .rxWait, inv_of_registersOk (by unfold registersOk; decide) (show _ ∧ _ ∧ _ from by decide), rfl, ⟨rfl, rfl⟩, rfl⟩,
    ⟨{ rxAt .rxBody with hdr := 0x01#8 },
      inv_of_registersOk (by unfold registersOk; decide) (show (_ ∧ _ ∧ _) ∧ _ from by decide), rfl, ⟨rfl, rfl⟩, rfl⟩⟩
theorem witness_TransmitterAlwaysGetsOn :
    ∃ s : State, s.Inv ∧ s.busy = true ∧ s.role = .transmitting ∧ s.undisturbed ∧ s.cs = .txSend 132 :=
  ⟨_, inv_txBuilt.1, rfl, rfl, ⟨rfl, rfl⟩, rfl⟩
theorem witness_BodyTimeoutsNeverEndTheSession :
    (let s := { rxAt .rxWait with
       neg := false, rx := [.byte 0x01#8, .timeout, .byte 0x01#8, .timeout], abort := List.replicate 11 false }
     s.busy = true ∧ s.sched = [] ∧ s.hung = false ∧ s.cs = .rxWait ∧ s.neg = false
      ∧ s.rx = (List.replicate 2 [Answer.byte 0x01#8, .timeout]).flatten ++ []
      ∧ s.abort = List.replicate (5 * 2) false ++ [false]) := by decide
theorem witness_OnlyAnOutstandingTransactionWaits :
    { rxAt .rxNeg with sched := [.wait] }.turn = .wait ∧ { rxAt (.recv .rxHdr) with sched := [.hang] }.turn = .hang
      ∧ ∃ s t : State, s.Inv ∧ s.hung = true ∧ s.sched = [] ∧ step s = .next t := by
  have hI : { rxAt .nak with hung := true }.Inv :=
    inv_of_registersOk (by unfold registersOk; decide) (show _ ∧ _ ∧ _ from by decide)
  exact ⟨by decide, by decide, _, _, hI, rfl, rfl, rfl⟩

end Sys2Proof.Tests
end

/-! SUPPORT. What a step adds to the history: internal computation nothing, every other primitive exactly one event,
and so does a host access; the waits of a port and the reset input add none. -/

namespace Sys2Proof.Machine

/-! ### What each operation adds to the history -/

@[simp] theorem send_hist (b : Byte) (c : Cs) (s : State) : (send b c s).hist = .tx b :: s.hist := rfl

@[simp] theorem headerTest_hist (s : State) : (headerTest s).hist = s.hist := by
  unfold headerTest
  repeat' split
  all_goals rfl

@[simp] theorem answerPacket_hist (v : Verdict) (s : State) : (answerPacket v s).hist = s.hist := by
  cases v <;> rfl

@[simp] theorem negotiationTest_hist (s : State) : (negotiationTest s).hist = s.hist := by
  unfold negotiationTest
  split <;> rfl

@[simp] theorem chooseBlock_hist (s : State) : (chooseBlock s).hist = s.hist := by
  unfold chooseBlock
  split <;> rfl

@[simp] theorem sendFrameByte_hist (i : Nat) (b : Byte) (s : State) :
    (sendFrameByte i b s).hist = .tx b :: s.hist := by
  unfold sendFrameByte
  split <;> rfl

@[simp] theorem whenIdle_hist {s s' : State} (h : s'.hist = s.hist) : (whenIdle s s').hist = s.hist := by
  unfold whenIdle
  split
  · rfl
  · exact h

/-! ### What each move adds to the history -/

/-- R6: a move of a session is internal computation without an event, or an event primitive with exactly one. -/
theorem Moves.hist_cases {s t : State} (h : Moves s t) :
    (s.cs.internal = true ∧ t.hist = s.hist) ∨ (s.cs.internal = false ∧ ∃ e, t.hist = e :: s.hist) := by
  cases h with
  | checked _ _ _ _ h | received _ _ _ _ h | negotiated _ _ h | stored _ h _ | acked _ h | naked h | cancelled _ _ h
  | flushed _ h | finished _ h | fetchedNothing _ _ h _ | built _ _ _ h _ _ _ | eotSent h =>
    exact .inr ⟨by rw [h]; rfl, _, rfl⟩
  | frameByteSent i b h _ => exact .inr ⟨by rw [h]; rfl, _, sendFrameByte_hist i b s⟩
  | tested h => exact .inl ⟨by rw [h]; rfl, headerTest_hist s⟩
  | classified _ h _ => exact .inl ⟨by rw [h]; rfl, answerPacket_hist _ s⟩
  | negotiationTested h => exact .inl ⟨by rw [h]; rfl, negotiationTest_hist s⟩
  | blockChosen h => exact .inl ⟨by rw [h]; rfl, chooseBlock_hist s⟩
  | header _ _ h | headerEot _ h | headerCan _ h | headerOther _ h | secondCanRx _ h | bodyByte _ _ h _
  | bodyTimeout _ h | selected _ _ _ h | negotiationCan _ h | negotiationOther _ h | secondCanNeg _ h
  | responseAck _ h | responseCan _ h | responseOther _ h | secondCanRsp _ h | eotAck _ h | eotOther _ h
  | waited h | counted h | bodyEntered h | capTested h | packetAcked h | eotEntered h | eotTested h =>
    exact .inl ⟨by rw [h]; rfl, rfl⟩

/-- R24: at `IDLE` the block stays as it is, whatever BUSY says. -/
theorem runPoint_csIdle {s : State} (h : s.cs = .idle) : runPoint s = .next s := by
  cases hb : s.busy with
  | false => exact runPoint_idle hb
  | true => rw [runPoint_none hb (by simp [codeAt, h])]; simp [sequencer, h]

/-- The sequencer leaves the block as it is where no session runs, and makes one of the listed moves where one does. -/
theorem runPoint_cases {s t : State} (h : runPoint s = .next t) : t = s ∨ (s.busy = true ∧ Moves s t) := by
  by_cases hi : s.cs = .idle
  · rw [runPoint_csIdle hi] at h
    cases h
    exact .inl rfl
  · cases hb : s.busy with
    | false =>
      rw [runPoint_idle hb] at h
      cases h
      exact .inl rfl
    | true => exact .inr ⟨rfl, moves_of_runPoint hb hi h⟩

/-- The sequencer performs at most one event. -/
theorem runPoint_hist_atMostOne {s t : State} (h : runPoint s = .next t) :
    t.hist = s.hist ∨ ∃ e, t.hist = e :: s.hist := by
  obtain rfl | ⟨-, hm⟩ := runPoint_cases h
  · exact .inl rfl
  · exact hm.hist_cases.imp And.right And.right

/-- The sequencer performs no event in internal computation. -/
theorem runPoint_hist_of_internal {s t : State} (h : runPoint s = .next t) (hi : s.cs.internal = true) :
    t.hist = s.hist := by
  obtain rfl | ⟨-, hm⟩ := runPoint_cases h
  · rfl
  · obtain ⟨-, hh⟩ | ⟨hn, -⟩ := hm.hist_cases
    · exact hh
    · simp [hi] at hn

/-- Executing a word written to CMD is no event: the write itself is what is recorded. -/
theorem runCode_cmdWord_hist {w : Word} {s t : State} (h : runCode (.cmdWord w) s = .next t) : t.hist = s.hist := by
  obtain e | e | ⟨m, c, -, e⟩ | ⟨u, c, e⟩ := command_cases w s <;> rw [e] at h <;> cases h
  · rfl
  all_goals exact whenIdle_hist rfl

/-- R270: a host access that is answered is exactly one event. -/
theorem hostAccess_hist {a : HostAccess} {s t : State} (h : hostAccess a s = .next t) :
    ∃ e, t.hist = e :: s.hist := by
  obtain ⟨r, -, rfl⟩ | ⟨v, -, hc⟩ | ⟨v, -, rfl⟩ | ⟨r, v, -, -, rfl⟩ := hostAccess_cases h
  · exact ⟨_, rfl⟩
  · exact ⟨_, runCode_cmdWord_hist hc⟩
  · exact ⟨_, rfl⟩
  · exact ⟨_, rfl⟩

/-! ### One event at a time -/

theorem State.computing_iff (s : State) : s.computing = true ↔ s.busy = true ∧ s.cs.internal = true :=
  Bool.and_eq_true_iff

theorem step_hist_atMostOne {s t : State} (h : step s = .next t) : t.hist = s.hist ∨ ∃ e, t.hist = e :: s.hist := by
  obtain ⟨-, h⟩ | ⟨-, -, h⟩ | ⟨-, a, -, h⟩ | ⟨-, -, h⟩ | ⟨-, -, h⟩ | ⟨-, -, h⟩ := step_cases h
  · exact runPoint_hist_atMostOne h
  · simpa using runPoint_hist_atMostOne h
  · exact .inr (by simpa using hostAccess_hist h)
  all_goals
    cases h
    exact .inl rfl

theorem step_hist_of_computing {s t : State} (h : step s = .next t) (hc : s.computing = true) : t.hist = s.hist := by
  rw [step_computing s hc] at h
  exact runPoint_hist_of_internal h (s.computing_iff.mp hc).2

/-- Settles O44: a step is the sequencer's primitive, a host access, a wait or the reset input, and each of them adds
at most one event; internal computation is only the sequencer's, at points whose moves add none. -/
theorem oneEventAtATime : Obligations.OneEventAtATime :=
  fun _ _ h => ⟨step_hist_atMostOne h, step_hist_of_computing h⟩

end Sys2Proof.Machine

/-! SUPPORT. Which registers a step writes and that it keeps the invariant: the operations with several branches, the
moves register by register, the moves point by point, then the step of a running and of an idle block. -/

namespace Sys2Proof.Machine

/-! ### What the operations with several branches can do -/

/-- R153 to R156: what the test of RX_HEAD can do. -/
theorem headerTest_cases (s : State) :
    (s.att ≠ Config.negAttempts ∧ headerTest s = s.goto (if s.neg then .rxNeg else .rxCount))
      ∨ (∃ m, s.neg = true ∧ ((s.mode = .gmode ∧ m = .crc) ∨ (s.mode = .crc ∧ m = .arith))
          ∧ headerTest s = { s with mode := m, att := 0, cs := .check (.head .rxHead) })
      ∨ headerTest s = s.goto (.can3 0 .syncError) := by
  unfold headerTest
  split
  · split
    · rename_i h
      exact .inr (.inl ⟨_, h.1, .inl ⟨h.2, rfl⟩, rfl⟩)
    · split
      · rename_i h
        exact .inr (.inl ⟨_, h.1, .inr ⟨h.2, rfl⟩, rfl⟩)
      · exact .inr (.inr rfl)
  · rename_i h
    exact .inl ⟨h, rfl⟩

/-- R167 to R174: a classified packet goes to the store, or is counted as a bad one. -/
theorem answerPacket_cases (v : Verdict) (s : State) :
    answerPacket v s = s.goto .rxStore
      ∨ ∃ c, (c = .nak ∨ c = .rxWait ∨ (c = .ack .duplicate ∧ s.mode ≠ .gmode))
        ∧ answerPacket v s = countBadPacket c s := by
  cases v with
  | accepted => exact .inl rfl
  | malformed => exact .inr ⟨_, .inl rfl, rfl⟩
  | duplicate =>
    refine .inr ⟨_, ?_, rfl⟩
    split
    · exact .inr (.inl rfl)
    · rename_i hm
      exact .inr (.inr ⟨rfl, hm⟩)

/-- R203, R206: what the test of TX_NHEAD can do. -/
theorem negotiationTest_cases (s : State) :
    negotiationTest s = s.goto (.can3 0 .syncError)
      ∨ (s.att ≠ Config.txNegAttempts
        ∧ negotiationTest s = { s with att := s.att + 1, cs := .check (.before .txNeg) }) := by
  unfold negotiationTest
  split
  · exact .inl rfl
  · exact .inr ⟨‹_›, rfl⟩

/-- R207, R213: what TX_BLOCK can do before its `Fetch`. -/
theorem chooseBlock_cases (s : State) :
    (s.ctrl = false ∧ chooseBlock s = s.goto .txEot)
      ∨ ((s.ctrl = false → s.remaining ≠ 0 ∧ s.eod = false)
        ∧ chooseBlock s = { s with bsize := blockSizeFor s.use1k s.remaining, cs := .txFetch }) := by
  unfold chooseBlock
  split
  · rename_i h
    exact .inl ⟨h.1, rfl⟩
  · rename_i h
    exact .inr ⟨by simpa using h, rfl⟩

/-- R210: what the sending of a frame byte can do. -/
theorem sendFrameByte_cases (i : Nat) (b : Byte) (s : State) :
    (i + 1 < frameLength s.bsize s.tsize ∧ sendFrameByte i b s = send b (.txSend (i + 1)) s)
      ∨ sendFrameByte i b s =
        send b (if s.mode = .gmode then .txAcked else .check (.before .txRsp)) { s with tries := s.tries + 1 } := by
  unfold sendFrameByte
  split
  · exact .inl ⟨‹_›, rfl⟩
  · exact .inr rfl

theorem headerTest_frame (s : State) :
    headerTest s = { s with
      mode := (headerTest s).mode, att := (headerTest s).att, cs := (headerTest s).cs } := by
  obtain ⟨-, e⟩ | ⟨m, -, -, e⟩ | e := headerTest_cases s <;> rw [e] <;> rfl

theorem answerPacket_frame (v : Verdict) (s : State) :
    answerPacket v s = { s with guard := (answerPacket v s).guard, cs := (answerPacket v s).cs } := by
  obtain e | ⟨c, -, e⟩ := answerPacket_cases v s <;> rw [e] <;> rfl

theorem negotiationTest_frame (s : State) :
    negotiationTest s = { s with att := (negotiationTest s).att, cs := (negotiationTest s).cs } := by
  obtain e | ⟨-, e⟩ := negotiationTest_cases s
  · rw [e]; rfl
  · rw [e]

theorem chooseBlock_frame (s : State) :
    chooseBlock s = { s with bsize := (chooseBlock s).bsize, cs := (chooseBlock s).cs } := by
  obtain ⟨-, e⟩ | ⟨-, e⟩ := chooseBlock_cases s
  · rw [e]; rfl
  · rw [e]

theorem sendFrameByte_frame (i : Nat) (b : Byte) (s : State) :
    sendFrameByte i b s = { s with
      tries := (sendFrameByte i b s).tries, cs := (sendFrameByte i b s).cs, hist := .tx b :: s.hist } := by
  obtain ⟨-, e⟩ | e := sendFrameByte_cases i b s <;> rw [e] <;> rfl

section moves
variable {s t : State}

/-! ### Which registers a move writes -/

/-- R22, R25, R29: no move writes ROLE, CTRL, USE1K or LIMIT. -/
theorem Moves.constants (h : Moves s t) :
    t.role = s.role ∧ t.ctrl = s.ctrl ∧ t.use1k = s.use1k ∧ t.limit = s.limit := by
  cases h with
  | tested => rw [headerTest_frame]; exact ⟨rfl, rfl, rfl, rfl⟩
  | classified => rw [answerPacket_frame]; exact ⟨rfl, rfl, rfl, rfl⟩
  | negotiationTested => rw [negotiationTest_frame]; exact ⟨rfl, rfl, rfl, rfl⟩
  | blockChosen => rw [chooseBlock_frame]; exact ⟨rfl, rfl, rfl, rfl⟩
  | frameByteSent => rw [sendFrameByte_frame]; exact ⟨rfl, rfl, rfl, rfl⟩
  | _ => exact ⟨rfl, rfl, rfl, rfl⟩

/-- R26: where MODE is written. -/
theorem Moves.mode_cases (h : Moves s t) :
    t.mode = s.mode
      ∨ (s.cs = .rxTest ∧ s.neg = true
        ∧ ((s.mode = .gmode ∧ t.mode = .crc) ∨ (s.mode = .crc ∧ t.mode = .arith)))
      ∨ (∃ r, s.cs = .answer .txNeg r) ∧ t.mode ≠ .none := by
  cases h with
  | tested h =>
    obtain ⟨-, e⟩ | ⟨m, hn, hm, e⟩ | e := headerTest_cases s <;> rw [e]
    · exact .inl rfl
    · exact .inr (.inl ⟨h, hn, hm⟩)
    · exact .inl rfl
  | selected m hm r h => exact .inr (.inr ⟨⟨r, h⟩, hm⟩)
  | classified => exact .inl (by rw [answerPacket_frame])
  | negotiationTested => exact .inl (by rw [negotiationTest_frame])
  | blockChosen => exact .inl (by rw [chooseBlock_frame])
  | frameByteSent => exact .inl (by rw [sendFrameByte_frame])
  | _ => exact .inl rfl

/-- R27, R28: where SEQ and BYTES are written. -/
theorem Moves.seq_bytes_cases (h : Moves s t) :
    (t.seq = s.seq ∧ t.bytes = s.bytes)
      ∨ (s.cs = .rxStore ∧ t.seq = s.seq + 1#8 ∧ t.bytes = s.bytes + BitVec.ofNat 32 s.storeCount)
      ∨ (s.cs = .txAcked ∧ t.seq = s.seq + 1#8 ∧ t.bytes = s.bytes + BitVec.ofNat 32 s.nfetch) := by
  cases h with
  | stored _ h => exact .inr (.inl ⟨h, rfl, rfl⟩)
  | packetAcked h => exact .inr (.inr ⟨h, rfl, rfl⟩)
  | tested => rw [headerTest_frame]; exact .inl ⟨rfl, rfl⟩
  | classified => rw [answerPacket_frame]; exact .inl ⟨rfl, rfl⟩
  | negotiationTested => rw [negotiationTest_frame]; exact .inl ⟨rfl, rfl⟩
  | blockChosen => rw [chooseBlock_frame]; exact .inl ⟨rfl, rfl⟩
  | frameByteSent => rw [sendFrameByte_frame]; exact .inl ⟨rfl, rfl⟩
  | _ => exact .inl ⟨rfl, rfl⟩

theorem countBadPacket_guard_eq_cap_iff {c : Cs} (hc : c ≠ .flush .retryExceeded) (s : State) :
    (countBadPacket c s).guard = Config.rxRetryCap ↔ (countBadPacket c s).cs = .flush .retryExceeded := by
  unfold countBadPacket
  by_cases hg : s.guard + 1 = Config.rxRetryCap <;> simp [hg, hc]

theorem countBadPacket_cs_ne {c : Cs} (x : Cs) (hc : c ≠ x) (hx : x ≠ .flush .retryExceeded) (s : State) :
    (countBadPacket c s).cs ≠ x := by
  unfold countBadPacket
  split
  · exact hx.symm
  · exact hc

/-- R30: where GUARD is written, and where the listing goes on from there. -/
theorem Moves.guard_cases (h : Moves s t) :
    (t.guard = s.guard ∧ s.cs ≠ .rxStore ∧ (s.cs = .rxClassify → t.cs = .rxStore))
      ∨ (s.cs = .rxClassify ∧ t.cs ≠ .rxStore ∧ t.guard = s.guard + 1
          ∧ (t.guard = Config.rxRetryCap ↔ t.cs = .flush .retryExceeded))
      ∨ (s.cs = .rxStore ∧ t.cs ≠ .rxStore ∧ t.guard = 0) := by
  cases h with
  | classified f h =>
    obtain e | ⟨c, hc, e⟩ := answerPacket_cases (classify s.mode s.bsize.bytes f s.seq) s <;> rw [e]
    · exact .inl ⟨rfl, by simp [h], fun _ => rfl⟩
    · have hne : c ≠ .rxStore ∧ c ≠ .flush .retryExceeded := by
        obtain rfl | rfl | ⟨rfl, -⟩ := hc <;> simp
      exact .inr (.inl ⟨h, countBadPacket_cs_ne _ hne.1 (by simp) s, rfl, countBadPacket_guard_eq_cap_iff hne.2 s⟩)
  | stored l h => exact .inr (.inr ⟨h, by dsimp only [afterAccepted]; repeat' split <;> simp, rfl⟩)
  | tested h => exact .inl ⟨by rw [headerTest_frame], by simp [h], by simp [h]⟩
  | negotiationTested h => exact .inl ⟨by rw [negotiationTest_frame], by simp [h], by simp [h]⟩
  | blockChosen h => exact .inl ⟨by rw [chooseBlock_frame], by simp [h], by simp [h]⟩
  | frameByteSent _ _ h => exact .inl ⟨by rw [sendFrameByte_frame], by simp [h], by simp [h]⟩
  | _ => exact .inl ⟨rfl, by simp [*], by simp [*]⟩

theorem Moves.frame_wf (h : Moves s t) (hw : s.frame.wf) : t.frame.wf := by
  cases h with
  | bodyByte k b _ hk => exact Memory.wf_writeList _ _ _ hw hk
  | bodyEntered => exact Memory.wf_writeList _ _ _ hw (by simp [Config.frameBytes])
  | built l _ _ _ _ _ hlen => exact Memory.wf_writeList _ _ _ hw (by rwa [Nat.zero_add])
  | tested => rw [headerTest_frame]; exact hw
  | classified => rw [answerPacket_frame]; exact hw
  | negotiationTested => rw [negotiationTest_frame]; exact hw
  | blockChosen => rw [chooseBlock_frame]; exact hw
  | frameByteSent => rw [sendFrameByte_frame]; exact hw
  | _ => exact hw

/-! ### When a session ends -/

theorem Cs.ite_ne_idle {p : Prop} [Decidable p] {a b : Cs} (ha : a ≠ .idle) (hb : b ≠ .idle) :
    (if p then a else b) ≠ .idle := by
  split
  · exact ha
  · exact hb

theorem CheckPoint.onward_ne_idle (c : CheckPoint) : c.onward ≠ .idle := by
  rcases c with h | p | ⟨p, r⟩
  · cases h <;> nofun
  all_goals nofun

theorem afterAccepted_ne_idle (s : State) : afterAccepted s ≠ .idle := Cs.ite_ne_idle nofun nofun

theorem afterAck_ne_idle (site : AckSite) (s : State) : afterAck site s ≠ .idle := by
  cases site with
  | accepted => exact afterAccepted_ne_idle s
  | _ => nofun

theorem afterFlush_ne_idle (site : FlushSite) : afterFlush site ≠ .idle := by
  cases site <;> nofun

/-- R302: only `Terminate` leads to `IDLE`. -/
theorem Moves.cs_ne_idle (h : Moves s t) : t.cs ≠ .idle ∨ ∃ o, s.cs = .finish o ∧ t = terminate o s := by
  cases h with
  | finished o h => exact .inr ⟨o, h, rfl⟩
  | checked c => exact .inl (Cs.ite_ne_idle nofun c.onward_ne_idle)
  | secondCanRx | secondCanNeg | secondCanRsp | bodyByte | cancelled | packetAcked | capTested | eotTested =>
    exact .inl (Cs.ite_ne_idle nofun nofun)
  | stored => exact .inl (Cs.ite_ne_idle (afterAccepted_ne_idle s) nofun)
  | acked site => exact .inl (afterAck_ne_idle site s)
  | flushed site => exact .inl (afterFlush_ne_idle site)
  | tested =>
    obtain ⟨-, e⟩ | ⟨m, -, -, e⟩ | e := headerTest_cases s <;> rw [e]
    · exact .inl (Cs.ite_ne_idle nofun nofun)
    all_goals exact .inl nofun
  | classified f =>
    obtain e | ⟨c, hc, e⟩ := answerPacket_cases (classify s.mode s.bsize.bytes f s.seq) s <;> rw [e]
    · exact .inl nofun
    · exact .inl (countBadPacket_cs_ne .idle (by obtain rfl | rfl | ⟨rfl, -⟩ := hc <;> nofun) nofun s)
  | negotiationTested => obtain e | ⟨-, e⟩ := negotiationTest_cases s <;> rw [e] <;> exact .inl nofun
  | blockChosen => obtain ⟨-, e⟩ | ⟨-, e⟩ := chooseBlock_cases s <;> rw [e] <;> exact .inl nofun
  | frameByteSent i b =>
    obtain ⟨-, e⟩ | e := sendFrameByte_cases i b s <;> rw [e]
    · exact .inl nofun
    · exact .inl (Cs.ite_ne_idle nofun nofun)
  | _ => exact .inl nofun

/-- R42, R302: BUSY and OUTCOME are written by `Terminate` alone. -/
theorem Moves.running_cases (h : Moves s t) :
    (t.busy = s.busy ∧ t.outcome = s.outcome ∧ t.cs ≠ .idle) ∨ ∃ o, t = terminate o s := by
  obtain hcs | ⟨o, -, he⟩ := h.cs_ne_idle
  · refine .inl (and_assoc.mp ⟨?_, hcs⟩)
    cases h with
    | finished o => exact absurd rfl hcs
    | tested => rw [headerTest_frame]; exact ⟨rfl, rfl⟩
    | classified => rw [answerPacket_frame]; exact ⟨rfl, rfl⟩
    | negotiationTested => rw [negotiationTest_frame]; exact ⟨rfl, rfl⟩
    | blockChosen => rw [chooseBlock_frame]; exact ⟨rfl, rfl⟩
    | frameByteSent => rw [sendFrameByte_frame]; exact ⟨rfl, rfl⟩
    | _ => exact ⟨rfl, rfl⟩
  · exact .inr ⟨o, he⟩

/-! ### The bounds of the registers -/

/-- What the invariant says at a known point; stated through `goto` so that it unfolds to that point's clause. -/
theorem State.Inv.pointInv_at (hI : s.Inv) {c : Cs} (h : s.cs = c) : (s.goto c).pointInv := by
  subst h
  exact hI.point

theorem State.fetchCapacity_le (s : State) : s.fetchCapacity ≤ s.bsize.bytes := Nat.min_le_left _ _

/-- R22: every counter stays within its cap; the point at which one is counted has tested it. -/
theorem Moves.counters_le (h : Moves s t) (hI : s.Inv) :
    t.att ≤ Config.negAttempts ∧ t.tries ≤ Config.txRetryCap ∧ t.eotn ≤ Config.eotTries
      ∧ t.nfetch ≤ Config.blkLarge := by
  have hatt := hI.att_le
  have htries := hI.tries_le
  have heotn := hI.eotn_le
  have hnfetch := hI.nfetch_le
  cases h with
  | waited => exact ⟨Nat.zero_le _, htries, heotn, hnfetch⟩
  | counted h =>
    obtain ⟨-, hlt⟩ : s.receiving ∧ s.att < Config.negAttempts := hI.pointInv_at h
    exact ⟨hlt, htries, heotn, hnfetch⟩
  | tested =>
    obtain ⟨-, e⟩ | ⟨m, -, -, e⟩ | e := headerTest_cases s <;> rw [e]
    · exact ⟨hatt, htries, heotn, hnfetch⟩
    · exact ⟨Nat.zero_le _, htries, heotn, hnfetch⟩
    · exact ⟨hatt, htries, heotn, hnfetch⟩
  | negotiationTested =>
    obtain e | ⟨hne, e⟩ := negotiationTest_cases s <;> rw [e]
    · exact ⟨hatt, htries, heotn, hnfetch⟩
    · exact ⟨lt_of_le_of_ne hatt hne, htries, heotn, hnfetch⟩
  | frameByteSent i b h =>
    obtain ⟨-, hlt, -⟩ : s.packetBuilt ∧ s.tries < Config.txRetryCap ∧ _ := hI.pointInv_at h
    obtain ⟨-, e⟩ | e := sendFrameByte_cases i b s <;> rw [e]
    · exact ⟨hatt, htries, heotn, hnfetch⟩
    · exact ⟨hatt, hlt, heotn, hnfetch⟩
  | eotEntered => exact ⟨hatt, htries, Nat.zero_le _, hnfetch⟩
  | eotSent h =>
    obtain ⟨-, -, hlt⟩ : s.transmitting ∧ s.ctrl = false ∧ s.eotn < Config.eotTries := hI.pointInv_at h
    exact ⟨hatt, htries, hlt, hnfetch⟩
  | fetchedNothing => exact ⟨hatt, htries, heotn, Nat.zero_le _⟩
  | built l _ _ _ hl =>
    exact ⟨hatt, Nat.zero_le _, heotn, (hl.trans s.fetchCapacity_le).trans s.bsize.bytes_le⟩
  | classified => rw [answerPacket_frame]; exact ⟨hatt, htries, heotn, hnfetch⟩
  | blockChosen => rw [chooseBlock_frame]; exact ⟨hatt, htries, heotn, hnfetch⟩
  | _ => exact ⟨hatt, htries, heotn, hnfetch⟩

theorem Moves.guard_le (h : Moves s t) (hI : s.Inv) : t.guard ≤ Config.rxRetryCap := by
  obtain ⟨e, -⟩ | ⟨hcs, -, e, -⟩ | ⟨-, -, e⟩ := h.guard_cases <;> rw [e]
  · exact hI.guard_le
  · obtain ⟨⟨⟨-, -, hguard⟩, -⟩, -⟩ : s.inBody ∧ _ := hI.pointInv_at hcs
    exact hguard
  · exact Nat.zero_le _

/-- R171, R207: the bytes still due, without wrapping. -/
theorem State.remaining_eq (h : s.bytes.toNat ≤ s.limit.toNat) :
    s.remaining = s.limit.toNat - s.bytes.toNat :=
  BitVec.toNat_sub_of_le h

/-- R28: counting bytes that are due does not wrap. -/
theorem State.toNat_bytes_add {n : Nat} (h : s.bytes.toNat + n ≤ s.limit.toNat) :
    (s.bytes + BitVec.ofNat 32 n).toNat = s.bytes.toNat + n := by
  have hlimit := s.limit.isLt
  rw [BitVec.toNat_add, BitVec.toNat_ofNat, Nat.mod_eq_of_lt (a := n) (by omega), Nat.mod_eq_of_lt (by omega)]

/-- R27, R28: BYTES advances with SEQ, by bytes that were due and fit the block. -/
theorem Moves.bytes_advance (h : Moves s t) (hI : s.Inv) :
    (t.seq = s.seq ∧ t.bytes = s.bytes)
      ∨ (t.seq = s.seq + 1#8 ∧ ((s.cs = .rxStore ∧ s.role = .receiving) ∨ (s.cs = .txAcked ∧ s.role = .transmitting))
        ∧ ∃ n, n ≤ s.bsize.bytes ∧ s.bytes.toNat + n ≤ s.limit.toNat ∧ t.bytes.toNat = s.bytes.toNat + n) := by
  obtain hkept | ⟨hcs, hseq, hbytes⟩ | ⟨hcs, hseq, hbytes⟩ := h.seq_bytes_cases
  · exact .inl hkept
  · obtain ⟨⟨⟨hrole, -⟩, -⟩, -⟩ : s.inBody ∧ _ := hI.pointInv_at hcs
    have hdue : s.bytes.toNat + s.storeCount ≤ s.limit.toNat := by
      have hle := hI.bytes_le
      have hmin : s.storeCount ≤ s.remaining := Nat.min_le_right _ _
      rw [State.remaining_eq hle] at hmin
      omega
    exact .inr ⟨hseq, .inl ⟨hcs, hrole⟩, s.storeCount, Nat.min_le_left _ _, hdue,
      by rw [hbytes, State.toNat_bytes_add hdue]⟩
  · obtain ⟨⟨hrole, -⟩, -, hn, hdue, -⟩ : s.packetBuilt := hI.pointInv_at hcs
    exact .inr ⟨hseq, .inr ⟨hcs, hrole⟩, s.nfetch, hn, hdue, by rw [hbytes, State.toNat_bytes_add hdue]⟩

theorem Moves.bytes_le (h : Moves s t) (hI : s.Inv) : t.bytes.toNat ≤ t.limit.toNat := by
  obtain ⟨-, -, -, hlimit⟩ := h.constants
  rw [hlimit]
  obtain ⟨-, e⟩ | ⟨-, -, n, -, hn, e⟩ := h.bytes_advance hI
  · rw [e]
    exact hI.bytes_le
  · rwa [e]

/-! ### What holds at the point a move leads to -/

/-- The converse of `State.Inv.pointInv_at`. -/
theorem pointInv_of_goto {c : Cs} (h : s.cs = c) (hp : (s.goto c).pointInv) : s.pointInv := by
  subst h
  exact hp

theorem pointInv_onward {c : CheckPoint} (hp : (s.goto (.check c)).pointInv) : (s.goto c.onward).pointInv := by
  rcases c with h | p | ⟨p, r⟩
  · cases h <;> exact hp
  all_goals exact hp

theorem OutcomeCode.done_endsSession (r : Role) : OutcomeCode.done.endsSession r = true := by
  cases r <;> rfl

theorem OutcomeCode.userAborted_endsSession (r : Role) : OutcomeCode.userAborted.endsSession r = true := by
  cases r <;> rfl

theorem OutcomeCode.remoteCancelled_endsSession (r : Role) : OutcomeCode.remoteCancelled.endsSession r = true := by
  cases r <;> rfl

theorem pointInv_headerTest (hr : s.receiving) (hatt : s.att ≤ Config.negAttempts) :
    (headerTest s).pointInv := by
  obtain ⟨hne, e⟩ | ⟨m, -, hm, e⟩ | e := headerTest_cases s <;> rw [e]
  · have hlt : s.att < Config.negAttempts := lt_of_le_of_ne hatt hne
    cases hn : s.neg with
    | true => exact ⟨hr, hn, hlt⟩
    | false => exact ⟨hr, hlt⟩
  · exact ⟨hr.1, by obtain ⟨-, rfl⟩ | ⟨-, rfl⟩ := hm <;> nofun, hr.2.2⟩
  · exact ⟨by decide, .inl rfl⟩

theorem pointInv_answerPacket (v : Verdict) (hp : s.inBody ∧ s.written (frameLength s.bsize s.tsize)) :
    (answerPacket v s).pointInv := by
  obtain ⟨hrole, hmode, hguard⟩ := hp.1.1
  obtain e | ⟨c, hc, e⟩ := answerPacket_cases v s <;> rw [e]
  · exact hp
  · by_cases hg : s.guard + 1 = Config.rxRetryCap
    · rw [countBadPacket, if_pos hg]
      exact hrole
    · have hr : s.role = .receiving ∧ s.mode ≠ .none ∧ s.guard + 1 < Config.rxRetryCap :=
        ⟨hrole, hmode, lt_of_le_of_ne hguard hg⟩
      rw [countBadPacket, if_neg hg]
      obtain rfl | rfl | ⟨rfl, hm⟩ := hc
      · exact hr
      · exact hr
      · exact ⟨hr, fun _ => hm⟩

theorem pointInv_afterAccepted (hc : t.cs = afterAccepted s) (hr : t.receiving) : t.pointInv := by
  apply pointInv_of_goto hc
  unfold afterAccepted
  split
  · exact OutcomeCode.done_endsSession t.role
  · exact hr

theorem pointInv_afterAck {site : AckSite} (hr : s.receiving) : (s.goto (afterAck site s)).pointInv := by
  cases site with
  | accepted => exact pointInv_afterAccepted (s := s) rfl hr
  | duplicate => exact hr
  | eot => exact OutcomeCode.done_endsSession s.role
  | cancel => exact OutcomeCode.remoteCancelled_endsSession s.role

/-- Writing the first byte that was not written extends what was written. -/
theorem State.written_append {n : Nat} (h : s.written n) (b : Byte) (c : Cs) :
    State.written { s with frame := s.frame.writeList n [b], cs := c } (n + 1) := by
  intro i hi
  show ((s.frame.writeList n [b]).read i).isSome = true
  rw [Memory.read_writeList_one]
  by_cases hin : i = n
  · rw [if_pos hin]
    rfl
  · rw [if_neg hin]
    exact h i (by omega)

theorem pointInv_bodyByte {k : Nat} (b : Byte)
    (hp : s.inBody ∧ k < bodyLength s.bsize s.tsize ∧ s.written (k + 1)) :
    State.pointInv { s with frame := s.frame.writeList (1 + k) [b], cs := afterBodyByte k s } := by
  obtain ⟨⟨hr, hneg, htsize, hhead⟩, hk, hw⟩ := hp
  rw [Nat.add_comm 1 k]
  have hhead' : (s.frame.writeList (k + 1) [b]).read 0 = some s.bsize.header := by
    rw [Memory.read_writeList_one, if_neg (by omega), hhead]
  unfold afterBodyByte
  split
  · exact ⟨⟨hr, hneg, htsize, hhead'⟩, ‹_›, s.written_append hw b _⟩
  · have hlen : frameLength s.bsize s.tsize = k + 1 + 1 := by
      rw [frameLength_eq_bodyLength]
      omega
    refine ⟨⟨hr, hneg, htsize, hhead'⟩, ?_⟩
    show State.written _ (frameLength s.bsize s.tsize)
    rw [hlen]
    exact s.written_append hw b _

theorem pointInv_can3 {k : Nat} {o : OutcomeCode} (hp : (s.goto (.can3 k o)).pointInv) :
    (s.goto (if k + 1 < Config.canAbortCount then .can3 (k + 1) o else .finish o)).pointInv := by
  obtain ⟨-, ho⟩ := hp
  split
  · exact ⟨‹_›, ho⟩
  · show o.endsSession s.role = true
    obtain rfl | ⟨hrole, rfl⟩ | ⟨hrole, rfl⟩ := ho
    · cases s.role <;> rfl
    all_goals
      rw [show s.role = _ from hrole]
      rfl

theorem pointInv_afterFlush {site : FlushSite} (hp : (s.goto (.flush site)).pointInv) :
    (s.goto (afterFlush site)).pointInv := by
  cases site with
  | rxCancel => exact ⟨hp, by simp⟩
  | retryExceeded => exact ⟨by decide, .inr (.inl ⟨hp, rfl⟩)⟩
  | txCancel => exact OutcomeCode.remoteCancelled_endsSession s.role

theorem State.packetBuilt.role (h : s.packetBuilt) : s.role = .transmitting := h.1.1

theorem pointInv_sendFrameByte {i : Nat} (b : Byte) (hp : s.packetBuilt ∧ s.tries < Config.txRetryCap) :
    (sendFrameByte i b s).pointInv := by
  obtain ⟨hi, e⟩ | e := sendFrameByte_cases i b s <;> rw [e]
  · exact ⟨hp.1, hp.2, hi⟩
  · split
    · exact hp.1
    · exact ⟨hp.1, ‹_›⟩

/-- R208: the frame that is assembled is the packet `State.packetBuilt` speaks of. -/
theorem packetBuilt_built {l : List Byte} {c : Nat} (src : List (List Byte)) (d : Nat) (e : Bool) (hist : List Event)
    (hs : s.transmitting) (hle : s.bytes.toNat ≤ s.limit.toNat) (hl : l.length ≤ s.fetchCapacity) :
    State.packetBuilt
      { s with
        src := src, draws := d, nfetch := l.length, eod := e, hist := hist
        tsize := s.mode.trailerSize, tries := c, cs := .check (.head .txSHead)
        frame := s.frame.writeList 0 (builtFrame (paddedPayload l s) s) } := by
  have hfit : l.length ≤ s.bsize.bytes := hl.trans s.fetchCapacity_le
  have hpad := paddedPayload_length l s hfit
  refine ⟨hs, rfl, hfit, ?_, paddedPayload l s, hpad, ?_⟩
  · have hrem : l.length ≤ s.remaining := hl.trans (Nat.min_le_right _ _)
    rw [State.remaining_eq hle] at hrem
    show s.bytes.toNat + l.length ≤ s.limit.toNat
    omega
  · have hread := Memory.readList_writeList s.frame 0 (builtFrame (paddedPayload l s) s)
    rw [builtFrame_length _ _ hpad] at hread
    exact hread

/-- A move leads to a point whose clause of the invariant holds. -/
theorem Moves.pointInv (h : Moves s t) (hI : s.Inv) : t.pointInv := by
  cases h with
  | checked c v ab d h =>
    cases v with
    | true => exact OutcomeCode.userAborted_endsSession s.role
    | false => exact pointInv_onward (hI.pointInv_at h)
  | received p r rx d h => exact (hI.pointInv_at h : s.readInv p)
  | header bs r h => exact ⟨hI.pointInv_at h, rfl⟩
  | headerEot r h => exact ⟨hI.pointInv_at h, by simp⟩
  | headerCan r h => exact (hI.pointInv_at h : s.receiving)
  | headerOther r h => exact (hI.pointInv_at h : s.receiving)
  | secondCanRx r h =>
    have hr : s.receiving := hI.pointInv_at h
    unfold Machine.secondCanRx
    split <;> exact hr
  | bodyByte k b h => exact pointInv_bodyByte b (hI.pointInv_at h)
  | bodyTimeout k h =>
    obtain ⟨⟨hr, -⟩, -⟩ : s.inBody ∧ _ := hI.pointInv_at h
    exact hr
  | selected m hm r h => exact ⟨(hI.pointInv_at h : s.negotiating).1, hm⟩
  | negotiationCan r h => exact (hI.pointInv_at h : s.negotiating)
  | negotiationOther r h => exact (hI.pointInv_at h : s.negotiating)
  | secondCanNeg r h =>
    have hn : s.negotiating := hI.pointInv_at h
    unfold secondCanTx
    split
    · exact hn.1
    · exact hn
  | responseAck r h => exact (hI.pointInv_at h : s.packetBuilt ∧ _).1
  | responseCan r h => exact (hI.pointInv_at h : s.packetBuilt ∧ _)
  | responseOther r h => exact (hI.pointInv_at h : s.packetBuilt ∧ _).1
  | secondCanRsp r h =>
    have hp : s.packetBuilt := (hI.pointInv_at h : s.packetBuilt ∧ _).1
    unfold secondCanTx
    split
    · exact hp.role
    · exact hp
  | eotAck r h => exact OutcomeCode.done_endsSession s.role
  | eotOther r h => exact (hI.pointInv_at h : s.transmitting ∧ _)
  | waited h => exact hI.pointInv_at h
  | tested h => exact pointInv_headerTest (hI.pointInv_at h) hI.att_le
  | negotiated b hb h =>
    obtain ⟨hr, -, hatt⟩ : s.receiving ∧ _ ∧ _ := hI.pointInv_at h
    exact ⟨hr, hatt⟩
  | counted h => exact (hI.pointInv_at h : s.receiving ∧ _).1
  | bodyEntered h =>
    obtain ⟨hr, hhdr⟩ : s.receiving ∧ s.hdr = s.bsize.header := hI.pointInv_at h
    have hread : (s.frame.writeList 0 [s.hdr]).read 0 = some s.bsize.header := by
      rw [Memory.read_writeList_one, if_pos rfl, hhdr]
    exact ⟨⟨hr, rfl, rfl, hread⟩, bodyLength_pos _ _, fun i hi => by
      rw [Nat.lt_one_iff.mp hi]
      exact Option.isSome_of_eq_some hread⟩
  | classified f h => exact pointInv_answerPacket _ (hI.pointInv_at h)
  | stored l h =>
    obtain ⟨⟨⟨hrole, hmode, -⟩, -⟩, -⟩ : s.inBody ∧ _ := hI.pointInv_at h
    have hcap : 0 < Config.rxRetryCap := by decide
    by_cases hm : s.mode = .gmode
    · rw [if_pos hm]
      exact pointInv_afterAccepted (s := s) rfl ⟨hrole, hmode, hcap⟩
    · rw [if_neg hm]
      exact ⟨⟨hrole, hmode, hcap⟩, fun _ => hm⟩
  | acked site h => exact pointInv_afterAck (hI.pointInv_at h : s.receiving ∧ _).1
  | naked h => exact hI.pointInv_at h
  | cancelled k o h => exact pointInv_can3 (hI.pointInv_at h)
  | flushed site h => exact pointInv_afterFlush (hI.pointInv_at h)
  | finished o h => trivial
  | negotiationTested h =>
    obtain e | ⟨-, e⟩ := negotiationTest_cases s <;> rw [e]
    · exact ⟨by decide, .inl rfl⟩
    · exact hI.pointInv_at h
  | blockChosen h =>
    have ht : s.transmitting := hI.pointInv_at h
    obtain ⟨hctrl, e⟩ | ⟨hdue, e⟩ := chooseBlock_cases s <;> rw [e]
    · exact ⟨ht, hctrl⟩
    · exact ⟨ht, rfl, hdue⟩
  | fetchedNothing src d h hc => exact ⟨(hI.pointInv_at h : s.transmitting ∧ _).1, hc⟩
  | built l src d h hl =>
    exact packetBuilt_built _ _ _ _ (hI.pointInv_at h : s.transmitting ∧ _).1 hI.bytes_le hl
  | capTested h =>
    have hp : s.packetBuilt := hI.pointInv_at h
    unfold capTest
    split
    · exact ⟨by decide, .inr (.inr ⟨hp.role, rfl⟩)⟩
    · exact ⟨hp, lt_of_le_of_ne hI.tries_le ‹_›, Nat.pos_of_ne_zero (by simp [frameLength])⟩
  | frameByteSent i b h =>
    obtain ⟨hp, htries, -⟩ : s.packetBuilt ∧ s.tries < Config.txRetryCap ∧ _ := hI.pointInv_at h
    exact pointInv_sendFrameByte b ⟨hp, htries⟩
  | packetAcked h =>
    have ht : s.transmitting := (hI.pointInv_at h : s.packetBuilt).1
    unfold Machine.packetAcked
    split
    · exact OutcomeCode.done_endsSession s.role
    · exact ht
  | eotEntered h => exact hI.pointInv_at h
  | eotTested h =>
    have ht : s.transmitting ∧ s.ctrl = false := hI.pointInv_at h
    unfold eotTest
    split
    · show OutcomeCode.noFinalAck.endsSession s.role = true
      rw [ht.1.1]
      rfl
    · exact ⟨ht.1, ht.2, lt_of_le_of_ne hI.eotn_le ‹_›⟩
  | eotSent h =>
    obtain ⟨ht, hctrl, -⟩ : s.transmitting ∧ s.ctrl = false ∧ _ := hI.pointInv_at h
    exact ⟨ht, hctrl⟩

/-- A move of a session keeps the invariant; the last clause needs that no transaction hangs. -/
theorem Moves.keepsInv (h : Moves s t) (hI : s.Inv) (hb : s.busy = true) (hh : s.hung = false) : t.Inv := by
  obtain ⟨hatt, htries, heotn, hnfetch⟩ := h.counters_le hI
  have hbusy : t.busy = true ↔ t.cs ≠ .idle := by
    obtain ⟨e, -, hcs⟩ | ⟨o, rfl⟩ := h.running_cases
    · simp [e, hb, hcs]
    · simp
  have houtcome (ht : t.busy = true) : t.outcome = .none := by
    obtain ⟨-, e, -⟩ | ⟨o, rfl⟩ := h.running_cases
    · rw [e, hI.outcome_clear hb]
    · simp at ht
  have hung : t.hung = false := h.surroundings.2.trans hh
  exact {
    busy_iff := hbusy, outcome_clear := houtcome, bytes_le := h.bytes_le hI, guard_le := h.guard_le hI
    att_le := hatt, tries_le := htries, eotn_le := heotn, nfetch_le := hnfetch
    frame_wf := h.frame_wf hI.frame_wf, hung_onPort := fun ht => by simp [hung] at ht, point := h.pointInv hI }

end moves

section steps
variable {s t : State}

/-! ### The invariant away from the moves -/

/-- The invariant does not speak of LENGTH, the surroundings or the history, but for what hangs. -/
theorem State.Inv.of_surroundings (hI : s.Inv) {length : Word} {sched : List Turn} {hung : Bool}
    {rx : List Answer} {src : List (List Byte)} {abort : List Bool} {draws : Nat} {hist : List Event}
    (hh : hung = true → s.onPort = true) :
    State.Inv { s with
      length := length, sched := sched, hung := hung, rx := rx, src := src, abort := abort, draws := draws
      hist := hist } :=
  { hI with hung_onPort := hh, point := hI.point }

theorem State.Inv.popTurn (hI : s.Inv) : (popTurn s).Inv := hI.of_surroundings hI.hung_onPort

theorem reset_inv : State.reset.Inv where
  busy_iff := by simp [State.reset]
  outcome_clear := nofun
  bytes_le := le_rfl
  guard_le := Nat.zero_le _
  att_le := Nat.zero_le _
  tries_le := Nat.zero_le _
  eotn_le := Nat.zero_le _
  nfetch_le := Nat.zero_le _
  frame_wf := reset_frame_wf
  hung_onPort := nofun
  point := trivial

theorem hwReset_inv (s : State) : (hwReset s).Inv :=
  State.Inv.of_surroundings (s := .reset) reset_inv nofun

theorem onPort_of_idle (hb : s.busy = false) : s.onPort = false := by
  simp [State.onPort, hb]

theorem State.Inv.not_hung_of_idle (hI : s.Inv) (hb : s.busy = false) : s.hung = false := by
  have h := hI.hung_onPort
  rw [onPort_of_idle hb] at h
  simpa using h

/-! ### Words written to CMD -/

/-- R276, R277: what a RECEIVE or a TRANSMIT command makes of an idle block. -/
inductive SessionStarts (s : State) : State → Prop
  | receive (m : Mode) (ctrl : Bool) (hm : m ≠ .none) : SessionStarts s (startReceive m ctrl s)
  | transmit (use1k ctrl : Bool) : SessionStarts s (startTransmit use1k ctrl s)

theorem SessionStarts.frame (h : SessionStarts s t) :
    t.busy = true ∧ t.sched = s.sched ∧ t.abort = s.abort := by
  cases h <;> exact ⟨rfl, rfl, rfl⟩

theorem SessionStarts.keepsInv (h : SessionStarts s t) (hI : s.Inv) (hh : s.hung = false) : t.Inv := by
  cases h with
  | receive m ctrl hm =>
    exact { hI with
      busy_iff := by simp [startReceive, rxStart, sessionStart]
      outcome_clear := fun _ => rfl
      bytes_le := Nat.zero_le _
      guard_le := Nat.zero_le _
      hung_onPort := fun ht => by cases hh.symm.trans ht
      point := ⟨rfl, hm, Nat.zero_lt_succ _⟩ }
  | transmit use1k ctrl =>
    exact { hI with
      busy_iff := by simp [startTransmit, txStart, sessionStart]
      outcome_clear := fun _ => rfl
      bytes_le := Nat.zero_le _
      att_le := Nat.zero_le _
      hung_onPort := fun ht => by cases hh.symm.trans ht
      point := ⟨rfl, rfl⟩ }

/-- R92: the words that start a session, OP 01 with CKPREF not 11, or OP 10. -/
def startWord (w : Word) : Prop :=
  w.toNat < 64 ∧ ((w.toNat % 4 = 1 ∧ w.toNat / 4 % 4 ≠ 3) ∨ w.toNat % 4 = 2)

theorem cmdOp_toNat (w : Word) : (cmdOp w).toNat = w.toNat % 4 := by
  simp [cmdOp, BitVec.extractLsb'_toNat]

theorem cmdCkpref_toNat (w : Word) : (cmdCkpref w).toNat = w.toNat / 4 % 4 := by
  simp [cmdCkpref, BitVec.extractLsb'_toNat, Nat.shiftRight_eq_div_pow]

theorem cmdReserved_toNat (w : Word) : (cmdReserved w).toNat = w.toNat / 64 := by
  have hw := w.isLt
  rw [cmdReserved, BitVec.extractLsb'_toNat, Nat.shiftRight_eq_div_pow]
  omega

theorem startWord_iff (w : Word) :
    startWord w ↔ cmdReserved w = 0#26 ∧ ((cmdOp w = 1#2 ∧ cmdCkpref w ≠ 3#2) ∨ cmdOp w = 2#2) := by
  simp only [startWord, ← BitVec.toNat_inj, ne_eq, cmdOp_toNat, cmdCkpref_toNat, cmdReserved_toNat,
    BitVec.toNat_ofNat]
  omega

theorem whenIdle_of_idle (hb : s.busy = false) (u : State) : whenIdle s u = u := by
  simp [whenIdle, hb]

theorem twoBits_cases (x : BitVec 2) : x = 0#2 ∨ x = 1#2 ∨ x = 2#2 ∨ x = 3#2 := by
  revert x
  decide

theorem decodeCmd_of_not_startWord {w : Word} (h : ¬ startWord w) :
    (∃ ign, decodeCmd w = .cmdNop ign) ∨ decodeCmd w = .cmdIllegal w := by
  rw [startWord_iff] at h
  unfold decodeCmd
  by_cases hr : cmdReserved w = 0#26
  · rw [if_neg (not_not.mpr hr)]
    obtain hop | hop | hop | hop := twoBits_cases (cmdOp w)
    · exact .inl ⟨_, if_pos hop⟩
    · have hck : cmdCkpref w = 3#2 := by
        by_contra hck
        exact h ⟨hr, .inl ⟨hop, hck⟩⟩
      exact .inr (by simp [hop, hck])
    · exact absurd ⟨hr, .inr hop⟩ h
    · exact .inr (by simp [hop])
  · exact .inr (if_pos hr)

theorem exec_startWord {w : Word} (h : startWord w) (hb : s.busy = false) :
    ∃ t, SessionStarts s t ∧ exec (decodeCmd w) s = .next t := by
  obtain ⟨hr, ⟨hop, hck⟩ | hop⟩ := (startWord_iff w).mp h
  · have hreceive : ∃ m, m ≠ .none ∧ exec (decodeCmd w) s = .next (whenIdle s (startReceive m (cmdCtrl w) s)) := by
      simp only [decodeCmd, hr, hop]
      obtain hp | hp | hp | hp := twoBits_cases (cmdCkpref w)
      · exact ⟨.arith, nofun, by simp [hp]; rfl⟩
      · exact ⟨.crc, nofun, by simp [hp]; rfl⟩
      · exact ⟨.gmode, nofun, by simp [hp]; rfl⟩
      · exact absurd hp hck
    obtain ⟨m, hm, he⟩ := hreceive
    exact ⟨_, .receive m (cmdCtrl w) hm, by rw [he, whenIdle_of_idle hb]⟩
  · refine ⟨_, .transmit (cmdUse1k w) (cmdCtrl w), ?_⟩
    have he : exec (decodeCmd w) s = .next (whenIdle s (startTransmit (cmdUse1k w) (cmdCtrl w) s)) := by
      simp [decodeCmd, hr, hop]
      rfl
    rw [he, whenIdle_of_idle hb]

/-- R274 to R277: what a word written to CMD does to an idle block. -/
theorem runCode_cmdWord_idle {w : Word} (hb : s.busy = false) (h : runCode (.cmdWord w) s = .next t) :
    t = s ∨ (decode (.cmdWord w) = .ok (.cmdIllegal w) ∧ t = { s with outcome := .badCommand })
      ∨ (startWord w ∧ SessionStarts s t) := by
  have hrun : exec (decodeCmd w) s = .next t := h
  by_cases hw : startWord w
  · obtain ⟨u, hu, e⟩ := exec_startWord hw hb
    rw [e] at hrun
    cases hrun
    exact .inr (.inr ⟨hw, hu⟩)
  · obtain ⟨ign, e⟩ | e := decodeCmd_of_not_startWord hw <;> rw [e] at hrun <;> cases hrun
    · exact .inl rfl
    · exact .inr (.inl ⟨congrArg Except.ok e, whenIdle_of_idle hb _⟩)

/-- R273: a word written to CMD while a session runs is ignored. -/
theorem runCode_cmdWord_running {w : Word} (hb : s.busy = true) (h : runCode (.cmdWord w) s = .next t) : t = s := by
  have hid (u : State) : whenIdle s u = s := if_pos hb
  obtain e | e | ⟨m, c, -, e⟩ | ⟨u, c, e⟩ := command_cases w s <;> rw [e] at h <;> cases h
  · rfl
  all_goals exact hid _

/-! ### Host accesses -/

/-- R272, R273: a host access while a session runs writes LENGTH at most. -/
theorem hostAccess_running {a : HostAccess} (hb : s.busy = true) (h : hostAccess a s = .next t) :
    ∃ l e, t = { s with length := l, hist := e :: s.hist } := by
  obtain ⟨r, -, rfl⟩ | ⟨w, -, hw⟩ | ⟨v, -, rfl⟩ | ⟨r, v, -, -, rfl⟩ := hostAccess_cases h
  · exact ⟨_, _, rfl⟩
  · exact ⟨_, _, runCode_cmdWord_running (s := s.record _) hb hw⟩
  · exact ⟨_, _, rfl⟩
  · exact ⟨_, _, rfl⟩

/-- R272 to R277: what a host access does to an idle block. -/
theorem hostAccess_idle {a : HostAccess} (hb : s.busy = false) (h : hostAccess a s = .next t) :
    (∃ l e, t = { s with length := l, hist := e :: s.hist })
      ∨ ∃ w e, a = .write 32 0x0 w
        ∧ ((decode (.cmdWord w) = .ok (.cmdIllegal w) ∧ t = { s with outcome := .badCommand, hist := e :: s.hist })
          ∨ (startWord w ∧ SessionStarts (s.record e) t)) := by
  obtain ⟨r, -, rfl⟩ | ⟨w, rfl, hw⟩ | ⟨v, -, rfl⟩ | ⟨r, v, -, -, rfl⟩ := hostAccess_cases h
  · exact .inl ⟨_, _, rfl⟩
  · obtain rfl | hillegal | hstart := runCode_cmdWord_idle (s := s.record _) hb hw
    · exact .inl ⟨_, _, rfl⟩
    · exact .inr ⟨w, _, rfl, .inl hillegal⟩
    · exact .inr ⟨w, _, rfl, .inr hstart⟩
  · exact .inl ⟨_, _, rfl⟩
  · exact .inl ⟨_, _, rfl⟩

theorem hostAccess_idle_inv {a : HostAccess} (hI : s.Inv) (hb : s.busy = false) (h : hostAccess a s = .next t) :
    t.Inv := by
  obtain ⟨l, e, rfl⟩ | ⟨w, e, -, ⟨-, rfl⟩ | ⟨-, hs⟩⟩ := hostAccess_idle hb h
  · exact hI.of_surroundings hI.hung_onPort
  · exact { hI with outcome_clear := fun ht => absurd (hb.symm.trans ht) nofun, point := hI.point }
  · exact hs.keepsInv (hI.of_surroundings hI.hung_onPort) (hI.not_hung_of_idle hb)

theorem sched_of_turn_host {a : HostAccess} (h : s.turn = .host a) : s.sched = .host a :: s.sched.tail := by
  obtain ⟨rest, e⟩ := sched_of_head ((turn_eq_host_iff s a).mp h) nofun
  rw [e]
  rfl

theorem sched_of_turn_reset (h : s.turn = .reset) : s.sched = .reset :: s.sched.tail := by
  obtain ⟨rest, e⟩ := sched_of_head ((turn_eq_reset_iff s).mp h) nofun
  rw [e]
  rfl

/-! ### Steps -/

theorem State.Inv.moves (hI : s.Inv) (hb : s.busy = true) (h : runPoint s = .next t) : Moves s t :=
  moves_of_runPoint hb (hI.busy_iff.mp hb) h

/-- A step of a running block is a move, which no hanging transaction holds up; or an access or a wait, which change
only LENGTH and the surroundings; or the reset input. -/
theorem step_busy_cases (hI : s.Inv) (hb : s.busy = true) (h : step s = .next t) :
    (s.hung = false ∧ ∃ q, Moves { s with sched := q } t)
      ∨ (s.computing = false ∧ ∃ l q hu hs, (hu = true → s.onPort = true)
        ∧ t = { s with length := l, sched := q, hung := hu, hist := hs })
      ∨ t = hwReset (popTurn s) := by
  obtain ⟨hc, h⟩ | ⟨-, ht, h⟩ | ⟨hc, a, -, h⟩ | ⟨-, -, h⟩ | ⟨hc, -, h⟩ | ⟨hc, ht, h⟩ := step_cases h
  · refine .inl ⟨?_, s.sched, hI.moves hb h⟩
    have hport := hI.hung_onPort
    rw [onPort_of_computing hc] at hport
    simpa using hport
  · refine .inl ⟨?_, s.sched.tail, moves_of_runPoint (s := popTurn s) hb (hI.busy_iff.mp hb) h⟩
    cases hh : s.hung with
    | false => rfl
    | true => exact hh.symm.trans (hung_of_turn_seq ht (hI.hung_onPort hh))
  · obtain ⟨l, e, rfl⟩ := hostAccess_running (s := popTurn s) hb h
    exact .inr (.inl ⟨hc, l, _, _, _, hI.hung_onPort, rfl⟩)
  · cases h
    exact .inr (.inr rfl)
  · cases h
    exact .inr (.inl ⟨hc, _, _, _, _, hI.hung_onPort, rfl⟩)
  · cases h
    exact .inr (.inl ⟨hc, _, _, _, _, fun _ => onPort_of_turn (.inr ht), rfl⟩)

/-- `step_busy_cases` where the session goes on, which excludes the reset input. -/
theorem step_running_cases (hI : s.Inv) (hb : s.busy = true) (h : step s = .next t) (ht : t.busy = true) :
    (∃ q, Moves { s with sched := q } t)
      ∨ (s.computing = false ∧ ∃ l q hu hs, t = { s with length := l, sched := q, hung := hu, hist := hs }) := by
  obtain ⟨-, hm⟩ | ⟨hc, l, q, hu, hs, -, rfl⟩ | rfl := step_busy_cases hI hb h
  · exact .inl hm
  · exact .inr ⟨hc, l, q, hu, hs, rfl⟩
  · exact absurd ht nofun

/-- R24: a step of an idle block takes a move of the schedule, and only the host's and the reset input's do more. -/
theorem step_idle_cases (hb : s.busy = false) (h : step s = .next t) :
    t = popTurn s ∨ (∃ a, s.turn = .host a ∧ hostAccess a (popTurn s) = .next t)
      ∨ (s.turn = .reset ∧ t = hwReset (popTurn s)) := by
  have hport := onPort_of_idle hb
  obtain ⟨hc, -⟩ | ⟨-, -, h⟩ | ⟨-, ha⟩ | ⟨-, ht, h⟩ | ⟨-, ht, -⟩ | ⟨-, ht, -⟩ := step_cases h
  · simp [State.computing, hb] at hc
  · rw [runPoint_idle (s := popTurn s) hb] at h
    cases h
    exact .inl rfl
  · exact .inr (.inl ha)
  · cases h
    exact .inr (.inr ⟨ht, rfl⟩)
  · simp [onPort_of_turn (.inl ht)] at hport
  · simp [onPort_of_turn (.inr ht)] at hport

theorem step_keepsInv (hI : s.Inv) (h : step s = .next t) : t.Inv := by
  cases hb : s.busy with
  | true =>
    obtain ⟨hh, q, hm⟩ | ⟨-, l, q, hu, hs, hport, rfl⟩ | rfl := step_busy_cases hI hb h
    · exact hm.keepsInv (hI.of_surroundings hI.hung_onPort) hb hh
    · exact hI.of_surroundings hport
    · exact hwReset_inv _
  | false =>
    obtain rfl | ⟨a, -, h⟩ | ⟨-, rfl⟩ := step_idle_cases hb h
    · exact hI.popTurn
    · exact hostAccess_idle_inv hI.popTurn hb h
    · exact hwReset_inv _

/-! ### The row that a step runs -/

theorem runPoint_decoded {c : Code} {i : Instr} (hb : s.busy = true) (hc : codeAt s = .ok (some c))
    (hd : decode c = .ok i) : runPoint s = exec i s := by
  rw [runPoint_some hb hc]
  simp [runCode, hd]

theorem step_decoded_internal {c : Code} {i : Instr} (hb : s.busy = true) (hn : s.cs.internal = true)
    (hc : codeAt s = .ok (some c)) (hd : decode c = .ok i) : step s = exec i s := by
  rw [step_computing s (s.computing_iff.mpr ⟨hb, hn⟩), runPoint_decoded hb hc hd]

theorem step_decoded_event {c : Code} {i : Instr} (hb : s.busy = true) (hn : s.cs.internal = false)
    (ht : s.turn = .seq) (hc : codeAt s = .ok (some c)) (hd : decode c = .ok i) : step s = exec i (popTurn s) := by
  rw [step_seq s (by simp [State.computing, hn]) ht]
  exact runPoint_decoded (s := popTurn s) hb hc hd

theorem frameCode_of_readList {f : List Byte}
    (hf : s.frame.readList 0 (3 + s.bsize.bytes + s.tsize.bytes) = some f) : frameCode s = .ok (some (.frame f)) := by
  have hread : memRead 0 (frameLength s.bsize s.tsize) s = .ok f := (memRead_eq_ok_iff _ _ _ _).mpr hf
  simp [frameCode, hread]

/-- R86 to R88, R165: the code of an answer whose read has a row, where it is decoded. -/
theorem codeAt_answer {p : ReadPoint} {a : AnswerPoint} {r : Answer} {i : Instr} (h : s.cs = .answer p r)
    (ha : p.answerPoint = some a) (hd : decode (.answer a r) = .ok i) :
    codeAt s = .ok (some (.answer a r)) := by
  unfold codeAt
  rw [h]
  split
  · rename_i hbody
    cases hbody
    cases ha
    cases hd
  · rename_i hans
    cases hans
    rw [ha]
    rfl
  all_goals rename_i hne; cases hne

theorem step_answer {p : ReadPoint} {a : AnswerPoint} {r : Answer} {i : Instr} (hb : s.busy = true)
    (h : s.cs = .answer p r) (ha : p.answerPoint = some a) (hd : decode (.answer a r) = .ok i) :
    step s = exec i s :=
  step_decoded_internal hb (by rw [h]; rfl) (codeAt_answer h ha hd) hd

/-! ### Rows away from their point -/

/-- CS is not at the decode of that read. -/
theorem answering_eq_false {p : ReadPoint} (h : ∀ r, s.cs ≠ .answer p r) : s.answering p = false := by
  rw [← Bool.not_eq_true, answering_iff]
  rintro ⟨r, hr⟩
  exact h r hr

theorem atPoint_refused {here : Bool} (h : here = false) (u : State) : atPoint here u = .refused .notAtItsPoint := by
  rw [h]
  rfl

theorem emitNeg_refused {m : Mode} (b : Byte) (h : s.cs ≠ .rxNeg ∨ s.mode ≠ m) :
    emitNeg m b s = .refused .notAtItsPoint := by
  have hpoint : (s.cs == .rxNeg && s.mode == m) = false := by
    simpa [← not_and_or] using h
  exact atPoint_refused hpoint _

theorem runFrame_refused (bs : BlockSize) (ts : TrailerSize) (f : List Byte)
    (h : s.cs ≠ .rxClassify ∧ ∀ n, s.cs ≠ .txSend n) : runFrame bs ts f s = .refused .notAtItsPoint := by
  unfold runFrame
  split
  · exact absurd ‹_› h.1
  · exact absurd ‹_› (h.2 _)
  · rfl

theorem execRxBodyByte_refused (b : Byte) (h : ∀ k r, s.cs ≠ .answer (.rxBody k) r) :
    execRxBodyByte b s = .refused .notAtItsPoint := by
  unfold execRxBodyByte
  split
  · exact absurd ‹_› (h _ _)
  · rfl

theorem execEmitAck_refused (h : ∀ site, s.cs ≠ .ack site) : execEmitAck s = .refused .notAtItsPoint := by
  unfold execEmitAck
  split
  · exact absurd ‹_› (h _)
  · rfl

theorem execEmitCan3_refused (h : ∀ k o, s.cs ≠ .can3 k o) : execEmitCan3 s = .refused .notAtItsPoint := by
  unfold execEmitCan3
  split
  · exact absurd ‹_› (h _ _)
  · rfl

end steps

/-! ### The state -/

/-- Settles O41: a running block makes one of the listed moves, each of which leads to a point whose clause holds; what
an idle block and the host do is listed by `step_idle_cases` and `hostAccess_idle`. -/
theorem stepKeepsTheInvariant : Obligations.StepKeepsTheInvariant := fun _ _ hI h => step_keepsInv hI h

/-- Settles O42: every register of the reset state is at its least value and CS is `IDLE`. -/
theorem resetMeetsTheInvariant : Obligations.ResetMeetsTheInvariant := reset_inv

/-- Settles O45, by the cases of a step of an idle block. -/
theorem onlyAStartCommandLeavesIdle : Obligations.OnlyAStartCommandLeavesIdle := by
  intro s t hI hb h
  have hnot {u : State} (e : u.busy = s.busy) : ¬ u.busy = true := by simp [e, hb]
  obtain rfl | ⟨a, ha, h⟩ | ⟨hr, rfl⟩ := step_idle_cases hb h
  · exact ⟨fun ht => absurd ht (hnot rfl), fun _ _ => rfl, fun _ _ => ⟨rfl, rfl, rfl, rfl, .inl rfl⟩, rfl⟩
  · have hsched := sched_of_turn_host ha
    have hhost {p : Prop} : (∀ b rest, s.sched ≠ .host b :: rest) → p := fun hno => absurd hsched (hno a _)
    obtain ⟨l, e, rfl⟩ | ⟨w, e, rfl, ⟨hd, rfl⟩ | ⟨hw, hs⟩⟩ := hostAccess_idle (s := popTurn s) hb h
    · exact ⟨fun ht => absurd ht (hnot rfl), hhost, fun _ _ => ⟨rfl, rfl, rfl, rfl, .inl rfl⟩, rfl⟩
    · exact ⟨fun ht => absurd ht (hnot rfl), hhost,
        fun _ _ => ⟨rfl, rfl, rfl, rfl, .inr ⟨rfl, w, _, hsched, hd⟩⟩, rfl⟩
    · obtain ⟨hbusy, hq, habort⟩ := hs.frame
      exact ⟨fun _ => ⟨w, _, hsched, hq, hw⟩, hhost,
        fun ht => absurd (hbusy.symm.trans ht) nofun, habort⟩
  · have hsched := sched_of_turn_reset hr
    exact ⟨nofun, fun _ hno => absurd hsched (hno _), fun _ hno => absurd hsched (hno _), rfl⟩

/-- Settles O46: no move writes the four registers, and OUTCOME is the invariant's. -/
theorem sessionConstants : Obligations.SessionConstants := by
  intro s t hI hb h ht
  have hout := (step_keepsInv hI h).outcome_clear ht
  obtain ⟨q, hm⟩ | ⟨-, l, q, hu, hs, rfl⟩ := step_running_cases hI hb h ht
  · obtain ⟨hrole, hctrl, huse1k, hlimit⟩ := hm.constants
    exact ⟨hrole, hctrl, huse1k, hlimit, hout⟩
  · exact ⟨rfl, rfl, rfl, rfl, hout⟩

/-- Settles O47: the invariant gives the role at the two points where a move writes MODE. -/
theorem modeOnlyDowngrades : Obligations.ModeOnlyDowngrades := by
  intro s t hI hb h ht
  obtain ⟨q, hm⟩ | ⟨-, l, q, hu, hs, rfl⟩ := step_running_cases hI hb h ht
  · obtain hkept | ⟨hcs, hneg, hdown⟩ | ⟨⟨r, hcs⟩, hsel⟩ := hm.mode_cases
    · exact .inl hkept
    · exact .inr (.inl ⟨(hI.pointInv_at hcs : s.receiving).1, hneg, hdown⟩)
    · obtain ⟨hrole, hmode⟩ : s.negotiating := hI.pointInv_at hcs
      exact .inr (.inr ⟨hrole, hmode, hsel⟩)
  · exact .inl rfl

/-- Settles O48, by `Moves.bytes_advance`. -/
theorem bytesAndSeqAdvanceTogether : Obligations.BytesAndSeqAdvanceTogether := by
  intro s t hI hb h ht
  refine ⟨(step_keepsInv hI h).bytes_le, ?_⟩
  obtain ⟨q, hm⟩ | ⟨-, l, q, hu, hs, rfl⟩ := step_running_cases hI hb h ht
  · obtain ⟨hseq, hbytes⟩ | ⟨hseq, hat, n, hn, -, hbytes⟩ := hm.bytes_advance (hI.of_surroundings hI.hung_onPort)
    · exact ⟨hbytes ▸ le_rfl, .inl ⟨hseq, hbytes⟩⟩
    · rw [hbytes]
      exact ⟨Nat.le_add_right _ _, .inr ⟨hseq, hat, Nat.add_le_add_left hn _⟩⟩
  · exact ⟨le_rfl, .inl ⟨rfl, rfl⟩⟩

/-- Settles O49, by `Moves.guard_cases`; the host never moves at the classification, which is internal computation. -/
theorem guardCountsBadPackets : Obligations.GuardCountsBadPackets := by
  intro s t hI hb h ht
  obtain ⟨q, hm⟩ | ⟨hc, l, q, hu, hs, rfl⟩ := step_running_cases hI hb h ht
  · obtain ⟨hkept, hstore, hclass⟩ | hbad | hstored := hm.guard_cases
    · exact .inl ⟨hkept, fun hcs => absurd hcs hstore, hclass⟩
    · exact .inr (.inl hbad)
    · exact .inr (.inr hstored)
  · refine .inl ⟨rfl, id, fun hcs => ?_⟩
    simp [State.computing, hb, hcs, Cs.internal] at hc

/-- Settles O54: each point's code is the one `codeAt` gives, and the sequencer decodes and executes it. -/
theorem stepRunsTheDecodedInstruction : Obligations.StepRunsTheDecodedInstruction := by
  intro s i
  refine ⟨fun hb => ⟨fun _ h => step_answer hb h rfl, fun _ _ h => step_answer hb h rfl,
    fun _ h => step_answer hb h rfl, fun _ h => step_answer hb h rfl, fun _ h => step_answer hb h rfl,
    fun f h hf => ?_, fun ht => ?_⟩, fun w rest hc hs hd => ?_⟩
  · exact step_decoded_internal hb (by rw [h]; rfl) (by simp [codeAt, h, frameCode_of_readList hf])
  · have hsent {c : Code} (hn : s.cs.internal = false) (hc : codeAt s = .ok (some c)) (hd : decode c = .ok i) :
        step s = exec i (popTurn s) := step_decoded_event hb hn ht hc hd
    refine ⟨fun b h hn => ?_, fun site h => ?_, fun h => ?_, fun k o h => ?_, fun h => ?_, fun n f h hf => ?_⟩
    · exact hsent (by rw [h]; rfl) (by simp [codeAt, h, hn])
    · exact hsent (by rw [h]; rfl) (by simp [codeAt, h, Config.ackByte])
    · exact hsent (by rw [h]; rfl) (by simp [codeAt, h, Config.nakByte])
    · exact hsent (by rw [h]; rfl) (by simp [codeAt, h, Config.can])
    · exact hsent (by rw [h]; rfl) (by simp [codeAt, h, Config.eot])
    · exact hsent (by rw [h]; rfl) (by simp [codeAt, h, frameCode_of_readList hf])
  · rw [step_host s _ hc (turn_of_sched_host hs)]
    simp [hostAccess, hostReg, runCode, hd, popTurn, hs, State.record]

/-- Settles O56: every row tests its point before it does anything. -/
theorem rowsStopAwayFromTheirPoint : Obligations.RowsStopAwayFromTheirPoint := by
  intro s r b
  refine ⟨fun h => ?_, execRxBodyByte_refused b, fun h => ?_, fun h => ?_, fun h => ?_, emitNeg_refused _,
    emitNeg_refused _, emitNeg_refused _, execEmitAck_refused, fun h => atPoint_refused (beq_false_of_ne h) _,
    execEmitCan3_refused, fun h => atPoint_refused (beq_false_of_ne h) _, fun h q c p x y => ?_⟩
  · simp [exec, execRxHdrSoh, execRxHdrStx, execRxHdrEot, execRxHdrCan, execRxHdrOther,
      atPoint_refused (answering_eq_false h)]
  · simp [exec, execTxNegG, execTxNegC, execTxNegNak, execTxNegCan, execTxNegOther,
      atPoint_refused (answering_eq_false h)]
  · simp [exec, execTxRspAck, execTxRspCan, execTxRspNak, execTxRspOther, atPoint_refused (answering_eq_false h)]
  · simp [exec, execTxEotAck, execTxEotOther, atPoint_refused (answering_eq_false h)]
  · simp [exec, execFrameSohArith, execFrameSohCrc, execFrameStxArith, execFrameStxCrc, runFrame_refused _ _ _ h]

end Sys2Proof.Machine

/-! SUPPORT. That a step goes on: the host's accesses, the answers' rows, then every point of the listings under the
invariant; which moves write FRAME and the sizes; and the row that a placed table word stands for. -/

namespace Sys2Proof.Machine

section progress
variable {s t : State}

/-! ### Host accesses -/

/-- R64, R67: the accesses that name a register. -/
theorem hostReg_isSome_iff (width off : Nat) :
    (hostReg width off).isSome = true ↔ width = 32 ∧ (off = 0x0 ∨ off = 0x4 ∨ off = 0x8 ∨ off = 0xC) := by
  constructor
  · intro h
    obtain ⟨r, hr⟩ := Option.isSome_iff_exists.mp h
    obtain ⟨hwidth, rfl⟩ := hostReg_eq_some hr
    exact ⟨hwidth, by cases r <;> decide⟩
  · rintro ⟨rfl, rfl | rfl | rfl | rfl⟩ <;> rfl

/-- R273 to R277: a word written to CMD always has a meaning. -/
theorem runCode_cmdWord_next (w : Word) (s : State) : ∃ t, runCode (.cmdWord w) s = .next t := by
  obtain e | e | ⟨_, _, -, e⟩ | ⟨_, _, e⟩ := command_cases w s <;> exact ⟨_, e⟩

theorem hostAccess_next {a : HostAccess} (h : a.defined = true) (s : State) : ∃ t, hostAccess a s = .next t := by
  cases a with
  | read w off =>
    obtain ⟨r, hr⟩ := Option.isSome_iff_exists.mp h
    simp [hostAccess, hr]
  | write w off v =>
    obtain ⟨r, hr⟩ := Option.isSome_iff_exists.mp h
    cases r with
    | cmd => simpa [hostAccess, hr] using runCode_cmdWord_next v _
    | _ => simp [hostAccess, hr]

theorem hostAccess_refused {a : HostAccess} (h : ¬ a.defined = true) (s : State) :
    hostAccess a s = .refused .undefinedHostAccess := by
  cases a with
  | read w off | write w off v =>
    have hnone : hostReg w off = none := Option.not_isSome_iff_eq_none.mp h
    simp [hostAccess, hnone]

/-- R64: exactly the accesses that are not defined are refused. -/
theorem hostAccess_refused_iff (a : HostAccess) (s : State) :
    hostAccess a s = .refused .undefinedHostAccess ↔ ¬ a.defined = true := by
  refine ⟨fun h hd => ?_, fun h => hostAccess_refused h s⟩
  obtain ⟨t, ht⟩ := hostAccess_next hd s
  exact absurd (h.symm.trans ht) nofun

/-! ### Answers -/

theorem atPoint_next {here : Bool} (h : here = true) (u : State) : ∃ t, atPoint here u = .next t :=
  ⟨u, by rw [h, atPoint_true]⟩

/-- R165: a body byte is stored where its index is one of FRAME's. -/
theorem execRxBodyByte_next {k : Nat} {r : Answer} (h : s.cs = .answer (.rxBody k) r)
    (hk : 1 + k < Config.frameBytes) (b : Byte) : ∃ t, execRxBodyByte b s = .next t := by
  simp [execRxBodyByte, h, memWrite_eq_ok (1 + k) [b] _ hk]

/-- R86 to R88, R165: the row of an answer goes on where CS is at the decode of that answer. -/
theorem exec_answer_next {q : ReadPoint} {p : AnswerPoint} {r : Answer} {i : Instr} (h : s.cs = .answer q r)
    (hq : q.answerPoint = some p) (hd : decode (.answer p r) = .ok i)
    (hk : ∀ k, q = .rxBody k → 1 + k < Config.frameBytes) : ∃ t, exec i s = .next t := by
  have ha : s.answering q = true := (answering_iff s q).mpr ⟨r, h⟩
  cases q with
  | rxCan | txNegCan | txRspCan => cases hq
  | rxBody k =>
    cases hq
    cases r with
    | timeout => cases hd
    | byte b =>
      cases hd
      exact execRxBodyByte_next h (hk k rfl) b
  | rxHdr | txNeg | txRsp | txEot =>
    cases hq
    obtain rfl := Except.ok.inj hd
    simp only [decodeHdr, decodeNeg, decodeRsp, decodeEot]
    repeat' split
    all_goals exact atPoint_next ha _

theorem State.Inv.runPoint_answer_next (hI : s.Inv) (hb : s.busy = true) {p : ReadPoint} {r : Answer}
    (h : s.cs = .answer p r) : ∃ t, runPoint s = .next t := by
  cases p with
  | rxHdr => rw [runPoint_rxHdr hb h]; exact exec_answer_next h rfl rfl nofun
  | txNeg => rw [runPoint_txNeg hb h]; exact exec_answer_next h rfl rfl nofun
  | txRsp => rw [runPoint_txRsp hb h]; exact exec_answer_next h rfl rfl nofun
  | txEot => rw [runPoint_txEot hb h]; exact exec_answer_next h rfl rfl nofun
  | rxCan => exact ⟨_, runPoint_rxCan hb h⟩
  | txNegCan => exact ⟨_, runPoint_txNegCan hb h⟩
  | txRspCan => exact ⟨_, runPoint_txRspCan hb h⟩
  | rxBody k =>
    cases r with
    | timeout => exact ⟨_, runPoint_rxBodyTimeout hb h⟩
    | byte b =>
      obtain ⟨-, hk, -⟩ : s.inBody ∧ k < bodyLength s.bsize s.tsize ∧ _ := hI.pointInv_at h
      have hfit := frameLength_le s.bsize s.tsize
      rw [frameLength_eq_bodyLength] at hfit
      rw [runPoint_rxBodyByte hb h]
      exact execRxBodyByte_next h (by omega) b

/-! ### The points that read or write FRAME -/

/-- R164: FRAME[0] is an index of FRAME. -/
theorem enterBody_next (s : State) : ∃ t, enterBody s = .next t := by
  simp [enterBody, memWrite_eq_ok 0 [s.hdr] _ (by simp [Config.frameBytes])]

/-- R75: the payload bytes that are stored were written. -/
theorem storePacket_next (h : s.written (frameLength s.bsize s.tsize)) : ∃ t, storePacket s = .next t := by
  have hcount : s.storeCount ≤ s.bsize.bytes := Nat.min_le_left _ _
  obtain ⟨l, hl, -⟩ := s.frame.readList_isSome 3 s.storeCount
    fun k hk => h (3 + k) (by unfold frameLength; omega)
  simp [storePacket, (memRead_eq_ok_iff _ _ _ _).mpr hl]

/-- R75: the frame that is classified was written whole. -/
theorem runPoint_classify_next (hb : s.busy = true) (hc : s.cs = .rxClassify)
    (h : s.inBody ∧ s.written (frameLength s.bsize s.tsize)) : ∃ t, runPoint s = .next t := by
  obtain ⟨⟨-, -, -, hhead⟩, hwritten⟩ := h
  obtain ⟨f, hf, -⟩ := s.frame.readList_isSome 0 (frameLength s.bsize s.tsize)
    fun k hk => hwritten (0 + k) (by omega)
  have hread := ((Memory.readList_eq_some_iff _ _ _ _).mp hf).2 0 (by simp [frameLength])
  exact ⟨_, runPoint_classify hb hc hf (hread.symm.trans hhead)⟩

/-- R75, R210: the byte that is sent is one of the packet's. -/
theorem runPoint_txSend_next {i : Nat} (hb : s.busy = true) (hc : s.cs = .txSend i) (hp : s.packetBuilt)
    (hi : i < frameLength s.bsize s.tsize) : ∃ t, runPoint s = .next t := by
  obtain ⟨-, -, -, -, p, -, hf⟩ := hp
  have hlen : i < (builtFrame p s).length := by rwa [((Memory.readList_eq_some_iff _ _ _ _).mp hf).1]
  exact ⟨_, runPoint_txSend hb hc hf (builtFrame_head p s) (List.getElem?_eq_getElem hlen)⟩

/-- R63: a payload that fits the block gives a frame that fits FRAME. -/
theorem assembleFrame_next {l : List Byte} (h : l.length ≤ s.bsize.bytes) : ∃ t, assembleFrame l s = .next t := by
  have hfit := frameLength_le s.bsize s.mode.trailerSize
  rw [← builtFrame_length _ s (paddedPayload_length l s h), ← Nat.zero_add (List.length _)] at hfit
  simp [assembleFrame, memWrite_eq_ok 0 _ _ hfit]

/-- R52, R284: a source that keeps its contract is answered. -/
theorem fetchBlock_next (h : s.sourceFits = true) : ∃ t, fetchBlock s = .next t := by
  obtain ⟨l, src, d, hdraw, hfits⟩ := drawFetch_spec s
  have hl := hfits h
  unfold fetchBlock
  simp only [hdraw, if_neg (Nat.not_lt.mpr hl)]
  split
  · exact ⟨_, rfl⟩
  · exact assembleFrame_next (hl.trans s.fetchCapacity_le)

/-! ### Every point -/

/-- Under the invariant, and with the source's contract kept at the fetch, the block has a next state at every
point. -/
theorem State.Inv.runPoint_next (hI : s.Inv) (hsrc : s.cs = .txFetch → s.sourceFits = true) :
    ∃ t, runPoint s = .next t := by
  cases hb : s.busy with
  | false => exact ⟨_, runPoint_idle hb⟩
  | true =>
    cases hcs : s.cs with
    | idle => exact ⟨_, runPoint_csIdle hcs⟩
    | check c => exact ⟨_, runPoint_check hb hcs⟩
    | recv p => exact ⟨_, runPoint_recv hb hcs⟩
    | answer p r => exact hI.runPoint_answer_next hb hcs
    | rxWait => exact ⟨_, runPoint_rxWait hb hcs⟩
    | rxTest => exact ⟨_, runPoint_rxTest hb hcs⟩
    | rxNeg =>
      obtain ⟨⟨-, hmode, -⟩, -⟩ : s.receiving ∧ _ := hI.pointInv_at hcs
      obtain ⟨b, -, e⟩ := runPoint_rxNeg hb hcs hmode
      exact ⟨_, e⟩
    | rxCount => exact ⟨_, runPoint_rxCount hb hcs⟩
    | rxBody => rw [runPoint_rxBody hb hcs]; exact enterBody_next s
    | rxClassify => exact runPoint_classify_next hb hcs (hI.pointInv_at hcs)
    | rxStore =>
      rw [runPoint_rxStore hb hcs]
      exact storePacket_next (hI.pointInv_at hcs : s.inBody ∧ _).2
    | ack site => exact ⟨_, runPoint_ack hb hcs⟩
    | nak => exact ⟨_, runPoint_nak hb hcs⟩
    | can3 k o => exact ⟨_, runPoint_can3 hb hcs⟩
    | flush site => exact ⟨_, runPoint_flush hb hcs⟩
    | finish o => exact ⟨_, runPoint_finish hb hcs⟩
    | txNegTest => exact ⟨_, runPoint_txNegTest hb hcs⟩
    | txBlock => exact ⟨_, runPoint_txBlock hb hcs⟩
    | txFetch => rw [runPoint_txFetch hb hcs]; exact fetchBlock_next (hsrc hcs)
    | txCapTest => exact ⟨_, runPoint_txCapTest hb hcs⟩
    | txSend i =>
      obtain ⟨hp, -, hi⟩ : s.packetBuilt ∧ _ ∧ i < frameLength s.bsize s.tsize := hI.pointInv_at hcs
      exact runPoint_txSend_next hb hcs hp hi
    | txAcked => exact ⟨_, runPoint_txAcked hb hcs⟩
    | txEot => exact ⟨_, runPoint_txEotPhase hb hcs⟩
    | txEotTest => exact ⟨_, runPoint_txEotTest hb hcs⟩
    | txSendEot => exact ⟨_, runPoint_txSendEot hb hcs⟩

/-- A computing block is not at its fetch, where the source is asked. -/
theorem cs_ne_txFetch_of_computing (h : s.computing = true) : s.cs ≠ .txFetch := by
  intro hcs
  simp [State.computing, hcs, Cs.internal] at h

theorem State.Inv.step_next (hI : s.Inv) (h : s.legalMove) : ∃ t, step s = .next t := by
  cases hc : s.computing with
  | true =>
    rw [step_computing s hc]
    exact hI.runPoint_next fun hcs => absurd hcs (cs_ne_txFetch_of_computing hc)
  | false =>
    unfold State.legalMove at h
    simp only [hc, Bool.false_eq_true, false_or] at h
    cases ht : s.turn with
    | seq =>
      rw [step_seq s hc ht]
      rw [ht] at h
      exact hI.popTurn.runPoint_next h
    | host a =>
      rw [step_host s a hc ht]
      rw [ht] at h
      exact hostAccess_next h _
    | reset => exact ⟨_, step_reset s hc ht⟩
    | wait => exact ⟨_, step_wait s hc ht⟩
    | hang => exact ⟨_, step_hang s hc ht⟩

/-! ### FRAME and the sizes -/

/-- R164, R165, R208: the points that write FRAME or TSIZE. -/
theorem Moves.frame_tsize_cases (h : Moves s t) :
    (t.frame = s.frame ∧ t.tsize = s.tsize) ∨ s.cs = .rxBody ∨ (∃ k r, s.cs = .answer (.rxBody k) r)
      ∨ s.cs = .txFetch := by
  cases h with
  | bodyByte k b h => exact .inr (.inr (.inl ⟨k, _, h⟩))
  | bodyEntered h => exact .inr (.inl h)
  | built _ _ _ h => exact .inr (.inr (.inr h))
  | tested => rw [headerTest_frame]; exact .inl ⟨rfl, rfl⟩
  | classified => rw [answerPacket_frame]; exact .inl ⟨rfl, rfl⟩
  | negotiationTested => rw [negotiationTest_frame]; exact .inl ⟨rfl, rfl⟩
  | blockChosen => rw [chooseBlock_frame]; exact .inl ⟨rfl, rfl⟩
  | frameByteSent => rw [sendFrameByte_frame]; exact .inl ⟨rfl, rfl⟩
  | _ => exact .inl ⟨rfl, rfl⟩

/-- R158, R159, R207: the points that write BSIZE. -/
theorem Moves.bsize_cases (h : Moves s t) :
    t.bsize = s.bsize ∨ (∃ r, s.cs = .answer .rxHdr r) ∨ s.cs = .txBlock := by
  cases h with
  | header _ r h => exact .inr (.inl ⟨r, h⟩)
  | blockChosen h => exact .inr (.inr h)
  | tested => rw [headerTest_frame]; exact .inl rfl
  | classified => rw [answerPacket_frame]; exact .inl rfl
  | negotiationTested => rw [negotiationTest_frame]; exact .inl rfl
  | frameByteSent => rw [sendFrameByte_frame]; exact .inl rfl
  | _ => exact .inl rfl

theorem State.receiving.not_transmitting (h : s.receiving) : s.role ≠ .transmitting := by
  rw [h.1]
  nofun

/-- R74, R216: a transmitter's moves write FRAME and TSIZE at the fetch alone and BSIZE at TX_BLOCK alone. -/
theorem Moves.transmitter_frame (h : Moves s t) (hI : s.Inv) (hr : s.role = .transmitting) :
    (s.cs ≠ .txFetch → t.frame = s.frame ∧ t.tsize = s.tsize) ∧ (s.cs ≠ .txBlock → t.bsize = s.bsize) := by
  constructor
  · intro hne
    obtain hkept | hcs | ⟨k, r, hcs⟩ | hcs := h.frame_tsize_cases
    · exact hkept
    · obtain ⟨hreceiving, -⟩ : s.receiving ∧ _ := hI.pointInv_at hcs
      exact absurd hr hreceiving.not_transmitting
    · obtain ⟨⟨hreceiving, -⟩, -⟩ : s.inBody ∧ _ := hI.pointInv_at hcs
      exact absurd hr hreceiving.not_transmitting
    · exact absurd hcs hne
  · intro hne
    obtain hkept | ⟨r, hcs⟩ | hcs := h.bsize_cases
    · exact hkept
    · exact absurd hr (hI.pointInv_at hcs : s.receiving).not_transmitting
    · exact absurd hcs hne

/-! ### Placed rows -/

theorem decode_of_decodeTableWord {nbits w : Nat} {i : Instr} (h : decodeTableWord nbits w = some i) :
    decode (tableCode nbits w) = .ok i := by
  unfold decodeTableWord at h
  split at h
  · cases h
    assumption
  · cases h

theorem withFetchWord_of_decodes {nbits w : Nat} {i : Instr} (h : decodeTableWord nbits w = some i) (s : State) :
    s.withFetchWord nbits w = placeCode (tableCode nbits w) s := by
  simp [State.withFetchWord, h]

/-- The only sent symbol among the table's words is the triple CAN: every other one is read as an answer. -/
theorem sentPoint_of_tableCode {nbits w : Nat} {p : SentPoint} {bytes : List Byte}
    (h : tableCode nbits w = .sent p bytes) : p = .can3 := by
  unfold tableCode at h
  dsimp only at h
  repeat' split at h
  all_goals cases h
  rfl

theorem decode_sent_can3 {bytes : List Byte} {i : Instr} (h : decode (.sent .can3 bytes) = .ok i) :
    bytes = [Config.can, Config.can, Config.can] := by
  by_contra hne
  simp [decode, decodeSent, hne] at h

theorem length_of_decodeFields {bs : Nat} {rest p tr : List Byte} {q c : Byte}
    (h : decodeFields bs rest = (q, c, p, tr)) (hne : tr ≠ []) : rest.length = 2 + bs + tr.length := by
  have htr : rest.drop (2 + bs) = tr := congrArg (fun fields => fields.2.2.2) h
  have hlen := congrArg List.length htr
  have hpos := List.length_pos_iff.mpr hne
  rw [List.length_drop] at hlen
  omega

/-- R82, R83: a frame that decodes has the header byte of a block size, and that size's length with one of the two
trailers. -/
theorem frame_shape_of_decode {f : List Byte} {i : Instr} (h : decode (.frame f) = .ok i) :
    ∃ bs ts, f[0]? = some (BlockSize.header bs) ∧ f.length = frameLength bs ts := by
  cases f with
  | nil => cases h
  | cons b rest =>
    have hshape (bs : BlockSize) (ts : TrailerSize) {q c : Byte} {p tr : List Byte} (hh : b = bs.header)
        (ht : tr.length = ts.bytes) (hf : decodeFields bs.bytes rest = (q, c, p, tr)) :
        ∃ bs ts, (b :: rest)[0]? = some (BlockSize.header bs) ∧ (b :: rest).length = frameLength bs ts := by
      have hlen := length_of_decodeFields hf (List.ne_nil_of_length_pos (ht ▸ ts.bytes_pos))
      refine ⟨bs, ts, by rw [hh]; rfl, ?_⟩
      rw [List.length_cons, frameLength]
      omega
    simp only [decode, decodeFrame] at h
    split at h
    · split at h
      · exact hshape .small .one ‹_› rfl ‹_›
      · exact hshape .small .two ‹_› rfl ‹_›
      · cases h
    · split at h
      · split at h
        · exact hshape .large .one ‹_› rfl ‹_›
        · exact hshape .large .two ‹_› rfl ‹_›
        · cases h
      · cases h

/-- What is placed at an event point is the sequencer's move there. -/
theorem step_placeEvent {c : Cs} {code : Code} {i : Instr} (hn : c.internal = false)
    (hc : codeAt (placeEvent c s) = .ok (some code)) (hd : decode code = .ok i) :
    step (placeEvent c s) = exec i { s with busy := true, cs := c, hung := false } :=
  step_decoded_event rfl hn (by simp [State.turn, placeEvent]) hc hd

/-- R272, R273: a placed word is written to CMD. -/
theorem step_placeCmd (w : Word) (s : State) :
    step (placeCmd w s) = exec (decodeCmd w)
      { s with
        busy := s.busy && !s.computing, cs := if s.computing then .idle else s.cs
        hung := s.hung && !s.computing, hist := .hostWr .cmd w :: s.hist } := by
  have hrun {u : State} (hc : u.computing = false) :
      step { u with sched := HostReg.cmd.wr w :: s.sched } =
        exec (decodeCmd w) { u with sched := s.sched, hist := .hostWr .cmd w :: u.hist } :=
    step_host _ (.write 32 0x0 w) hc (turn_of_sched_host rfl)
  unfold placeCmd
  cases hc : s.computing with
  | true => simpa using hrun (u := { s with busy := false, cs := .idle, hung := false }) rfl
  | false => simpa using hrun hc

/-- R86 to R88: a placed answer runs its row, which goes on. -/
theorem step_placeAnswer {p : AnswerPoint} {r : Answer} {i : Instr} (hd : decode (.answer p r) = .ok i)
    (s : State) : step (placeAnswer p r s) = exec i (placeAnswer p r s)
      ∧ ∃ t, exec i (placeAnswer p r s) = .next t := by
  cases p with
  | body =>
    exact ⟨step_answer rfl rfl rfl hd, exec_answer_next rfl rfl hd fun k hk => by cases hk; decide⟩
  | _ => exact ⟨step_answer rfl rfl rfl hd, exec_answer_next rfl rfl hd nofun⟩

/-- R82, R83: the header byte and the length of a frame give BSIZE and TSIZE back. -/
theorem sizes_of_frame {f : List Byte} {bs : BlockSize} {ts : TrailerSize} (hh : f[0]? = some bs.header)
    (hl : f.length = frameLength bs ts) :
    (if f.head? = some 0x02#8 then BlockSize.large else .small) = bs
      ∧ (if f.length = 132 ∨ f.length = 1028 then TrailerSize.one else .two) = ts := by
  rw [List.head?_eq_getElem?, hh, hl]
  cases bs <;> cases ts <;> decide

theorem placeFrame_of_sizes {f : List Byte} {bs : BlockSize} {ts : TrailerSize} (hh : f[0]? = some bs.header)
    (hl : f.length = frameLength bs ts) (s : State) :
    placeFrame f s =
      placeEvent (.txSend 0) { s with bsize := bs, tsize := ts, frame := s.frame.writeList 0 f } := by
  rw [placeFrame, List.head?_eq_getElem?, hh, hl]
  cases bs <;> cases ts <;> rfl

/-- R210: a placed frame is in FRAME with its sizes, and its row runs at the sending of its first byte. -/
theorem step_placeFrame {f : List Byte} {i : Instr} {bs : BlockSize} {ts : TrailerSize}
    (hd : decode (.frame f) = .ok i) (hh : f[0]? = some bs.header) (hl : f.length = frameLength bs ts) (s : State) :
    step (placeFrame f s) = exec i
      { s with
        busy := true, hung := false, cs := .txSend 0, frame := s.frame.writeList 0 f, bsize := bs, tsize := ts } := by
  have hread : (s.frame.writeList 0 f).readList 0 (frameLength bs ts) = some f :=
    hl ▸ Memory.readList_writeList s.frame 0 f
  rw [placeFrame_of_sizes hh hl]
  exact step_placeEvent rfl (frameCode_of_readList hread) hd

/-- R210: the row of a frame goes on where the first byte of a frame of its sizes is sent. -/
theorem exec_frame_next {f : List Byte} {i : Instr} (hd : decode (.frame f) = .ok i)
    (hh : f[0]? = some s.bsize.header) (hl : f.length = frameLength s.bsize s.tsize) (hcs : s.cs = .txSend 0) :
    ∃ t, exec i s = .next t := by
  have hrun : exec i s = runFrame s.bsize s.tsize f s := by
    rw [← runCode_frame _ _ f s hl hh]
    simp [runCode, hd]
  simp [hrun, runFrame, hcs, hh]

end progress

/-- Settles O55, form by form: each placed row stands at its point, where a step decodes and executes it. -/
theorem placedInstructionRunsNext : Obligations.PlacedInstructionRunsNext := by
  intro s nbits w i h
  have hd := decode_of_decodeTableWord h
  rw [withFetchWord_of_decodes h]
  cases hcode : tableCode nbits w with
  | cmdWord v =>
    rw [hcode] at hd
    obtain rfl : decodeCmd v = i := Except.ok.inj hd
    have hstep := step_placeCmd v s
    obtain ⟨t, ht⟩ := runCode_cmdWord_next v _
    exact ⟨⟨t, hstep.trans ht⟩, hstep⟩
  | answer p r =>
    rw [hcode] at hd
    obtain ⟨hstep, hnext⟩ := step_placeAnswer hd s
    exact ⟨hnext.imp fun _ => hstep.trans, hstep⟩
  | sent p bytes =>
    obtain rfl := sentPoint_of_tableCode hcode
    rw [hcode] at hd
    obtain rfl := decode_sent_can3 hd
    obtain rfl : Instr.emitCan3 = i := Except.ok.inj hd
    have hstep := step_placeEvent (s := s) (c := .can3 0 .syncError) rfl rfl hd
    exact ⟨⟨_, hstep⟩, rfl, rfl, hstep⟩
  | frame bytes =>
    rw [hcode] at hd
    obtain ⟨bs, ts, hh, hl⟩ := frame_shape_of_decode hd
    obtain ⟨hbsize, htsize⟩ := sizes_of_frame hh hl
    dsimp only
    rw [hbsize, htsize]
    have hstep := step_placeFrame hd hh hl s
    exact ⟨(exec_frame_next hd hh hl rfl).imp fun _ => hstep.trans, hstep⟩

/-- Settles O14, by the four addresses that `hostReg` knows. -/
theorem undefinedHostAccessesAreRefused : Obligations.UndefinedHostAccessesAreRefused := by
  intro s width off v
  rw [← hostReg_isSome_iff]
  exact ⟨hostAccess_refused_iff (.read width off) s, hostAccess_refused_iff (.write width off v) s,
    fun h => ⟨hostAccess_next (a := .read width off) h s, hostAccess_next (a := .write width off v) h s⟩⟩

/-- Settles O40: the receiver's points, which write them too, are excluded by the invariant. -/
theorem frameAndSizesStayUntilTheNextPacket : Obligations.FrameAndSizesStayUntilTheNextPacket := by
  intro s t hI hb hr h ht
  obtain ⟨q, hm⟩ | ⟨-, l, q, hu, hs, rfl⟩ := step_running_cases hI hb h ht
  · exact hm.transmitter_frame (hI.of_surroundings hI.hung_onPort) hr
  · exact ⟨fun _ => ⟨rfl, rfl⟩, fun _ => rfl⟩

/-- Settles O43, by the mover's cases: the sequencer at every point, and the host's defined accesses. -/
theorem stepNeverStops : Obligations.StepNeverStops := fun _ hI h => hI.step_next h

end Sys2Proof.Machine

/-! SUPPORT. The encodings: the fields of a CMD word and what the decoder makes of them, the answers that no row lists,
the fields of a frame, and that decoder and encoder undo each other; then what STATUS reads as, what an answer and a
sent symbol do at their points, and where each byte that the block sends comes from. -/

namespace Sys2Proof.Machine

/-! ### The fields of a CMD word -/

/-- R91: the word of these fields, with bits 31:6 zero. -/
def cmdWordOf (ctrl use1k : Bool) (ckpref op : BitVec 2) : Word :=
  0#26 ++ BitVec.ofBool ctrl ++ BitVec.ofBool use1k ++ ckpref ++ op

section words
variable {v w : Word} (c u : Bool) (k o : BitVec 2)

@[simp] theorem cmdReserved_cmdWordOf : cmdReserved (cmdWordOf c u k o) = 0#26 := by
  revert c u k o
  decide

@[simp] theorem cmdCtrl_cmdWordOf : cmdCtrl (cmdWordOf c u k o) = c := by
  revert c u k o
  decide

@[simp] theorem cmdUse1k_cmdWordOf : cmdUse1k (cmdWordOf c u k o) = u := by
  revert c u k o
  decide

@[simp] theorem cmdCkpref_cmdWordOf : cmdCkpref (cmdWordOf c u k o) = k :=
  (BitVec.extractLsb'_append_eq_of_le (by decide)).trans BitVec.extractLsb'_append_eq_right

@[simp] theorem cmdOp_cmdWordOf : cmdOp (cmdWordOf c u k o) = o := BitVec.extractLsb'_append_eq_right

theorem ofBool_getLsbD (w : Word) (i : Nat) : BitVec.ofBool (w.getLsbD i) = w.extractLsb' i 1 := by
  rw [BitVec.getLsbD_eq_extractLsb']
  obtain h | h := BitVec.eq_zero_or_eq_one (w.extractLsb' i 1) <;> rw [h] <;> rfl

/-- R91: a word with bits 31:6 zero is the word of its other fields. -/
theorem cmdWordOf_fields (h : cmdReserved w = 0#26) :
    cmdWordOf (cmdCtrl w) (cmdUse1k w) (cmdCkpref w) (cmdOp w) = w := by
  unfold cmdWordOf
  rw [← h, cmdReserved, cmdCtrl, cmdUse1k, cmdCkpref, cmdOp, ofBool_getLsbD, ofBool_getLsbD,
    BitVec.extractLsb'_append_extractLsb'_eq_extractLsb' (show 6 = 5 + 1 from rfl),
    BitVec.extractLsb'_append_extractLsb'_eq_extractLsb' (show 5 = 4 + 1 from rfl),
    BitVec.extractLsb'_append_extractLsb'_eq_extractLsb' (show 4 = 2 + 2 from rfl),
    BitVec.extractLsb'_append_extractLsb'_eq_extractLsb' (show 2 = 0 + 2 from rfl)]
  exact BitVec.extractLsb'_eq_self

/-- R92: a NOP word is its bits 5:2. -/
theorem nopWord_fields (h : cmdReserved w = 0#26) (hop : cmdOp w = 0#2) :
    0#26 ++ w.extractLsb' 2 4 ++ 0#2 = w := by
  rw [← h, ← hop, cmdReserved, cmdOp,
    BitVec.extractLsb'_append_extractLsb'_eq_extractLsb' (show 6 = 2 + 4 from rfl),
    BitVec.extractLsb'_append_extractLsb'_eq_extractLsb' (show 2 = 0 + 2 from rfl)]
  exact BitVec.extractLsb'_eq_self

theorem cmdReserved_xor : cmdReserved (w ^^^ v) = cmdReserved w ^^^ cmdReserved v := BitVec.extractLsb'_xor
theorem cmdCtrl_xor : cmdCtrl (w ^^^ v) = (cmdCtrl w ^^ cmdCtrl v) := BitVec.getLsbD_xor
theorem cmdUse1k_xor : cmdUse1k (w ^^^ v) = (cmdUse1k w ^^ cmdUse1k v) := BitVec.getLsbD_xor
theorem cmdCkpref_xor : cmdCkpref (w ^^^ v) = cmdCkpref w ^^^ cmdCkpref v := BitVec.extractLsb'_xor
theorem cmdOp_xor : cmdOp (w ^^^ v) = cmdOp w ^^^ cmdOp v := BitVec.extractLsb'_xor

/-- R91: bit 4 is no other field's. -/
theorem use1kBit_fields : cmdReserved 0x10#32 = 0#26 ∧ cmdOp 0x10#32 = 0#2 ∧ cmdCkpref 0x10#32 = 0#2
    ∧ cmdCtrl 0x10#32 = false := by decide

/-- R91: bits 3:2 are no other field's. -/
theorem ckprefBits_fields (k : BitVec 2) :
    cmdReserved (k.setWidth 32 <<< 2) = 0#26 ∧ cmdOp (k.setWidth 32 <<< 2) = 0#2
      ∧ cmdUse1k (k.setWidth 32 <<< 2) = false ∧ cmdCtrl (k.setWidth 32 <<< 2) = false := by
  revert k
  decide

/-- Bits 31:6 are zero in the words below 64. -/
theorem cmdReserved_eq_zero_iff : cmdReserved w = 0#26 ↔ w.toNat < 64 := by
  rw [← BitVec.toNat_inj, cmdReserved_toNat, BitVec.toNat_ofNat]
  omega

theorem cmdOp_eq_iff {x : BitVec 2} : cmdOp w = x ↔ w.toNat % 4 = x.toNat := by
  rw [← BitVec.toNat_inj, cmdOp_toNat]

theorem cmdCkpref_eq_iff {x : BitVec 2} : cmdCkpref w = x ↔ w.toNat / 4 % 4 = x.toNat := by
  rw [← BitVec.toNat_inj, cmdCkpref_toNat]

/-! ### What the decoder makes of a CMD word (R92, R94) -/

theorem decodeCmd_nop (hr : cmdReserved w = 0#26) (hop : cmdOp w = 0#2) :
    decodeCmd w = .cmdNop (w.extractLsb' 2 4) := by
  simp [decodeCmd, hr, hop]

theorem decodeCmd_receiveArith (hr : cmdReserved w = 0#26) (hop : cmdOp w = 1#2) (hk : cmdCkpref w = 0#2) :
    decodeCmd w = .cmdReceiveArith (cmdUse1k w) (cmdCtrl w) := by
  simp [decodeCmd, hr, hop, hk]

theorem decodeCmd_receiveCrc (hr : cmdReserved w = 0#26) (hop : cmdOp w = 1#2) (hk : cmdCkpref w = 1#2) :
    decodeCmd w = .cmdReceiveCrc (cmdUse1k w) (cmdCtrl w) := by
  simp [decodeCmd, hr, hop, hk]

theorem decodeCmd_receiveGmode (hr : cmdReserved w = 0#26) (hop : cmdOp w = 1#2) (hk : cmdCkpref w = 2#2) :
    decodeCmd w = .cmdReceiveGmode (cmdUse1k w) (cmdCtrl w) := by
  simp [decodeCmd, hr, hop, hk]

theorem decodeCmd_transmit (hr : cmdReserved w = 0#26) (hop : cmdOp w = 2#2) :
    decodeCmd w = .cmdTransmit (cmdCkpref w) (cmdUse1k w) (cmdCtrl w) := by
  simp [decodeCmd, hr, hop]

theorem illegalWord_iff (w : Word) :
    illegalWord w = true ↔
      cmdReserved w ≠ 0#26 ∨ cmdOp w = 3#2 ∨ (cmdOp w = 1#2 ∧ cmdCkpref w = 3#2) := by
  simp only [illegalWord, Bool.or_eq_true, Bool.and_eq_true, bne_iff_ne, beq_iff_eq, or_assoc]
  rfl

theorem decodeCmd_illegal (h : illegalWord w = true) : decodeCmd w = .cmdIllegal w := by
  obtain hr | hop | ⟨hop, hk⟩ := (illegalWord_iff w).mp h
  · exact if_pos hr
  · simp [decodeCmd, hop]
  · simp [decodeCmd, hop, hk]

/-- R92, R94: a word is illegal, or one of the five legal kinds. -/
theorem cmdWord_cases (w : Word) :
    illegalWord w = true
      ∨ cmdReserved w = 0#26 ∧ (cmdOp w = 0#2 ∨ cmdOp w = 2#2
        ∨ (cmdOp w = 1#2 ∧ (cmdCkpref w = 0#2 ∨ cmdCkpref w = 1#2 ∨ cmdCkpref w = 2#2))) := by
  rw [illegalWord_iff]
  have hop := twoBits_cases (cmdOp w)
  have hk := twoBits_cases (cmdCkpref w)
  tauto

/-- No bit of a word is dropped by the decoder, whatever it makes of it. -/
theorem decodeCmd_wf_encode (w : Word) : (decodeCmd w).wf = true ∧ encode (decodeCmd w) = .cmdWord w := by
  obtain h | ⟨hr, hop | hop | ⟨hop, hk | hk | hk⟩⟩ := cmdWord_cases w
  · rw [decodeCmd_illegal h]
    exact ⟨h, rfl⟩
  · rw [decodeCmd_nop hr hop]
    exact ⟨rfl, congrArg Code.cmdWord (nopWord_fields hr hop)⟩
  all_goals
    have hw := cmdWordOf_fields hr
    rw [hop] at hw
  · rw [decodeCmd_transmit hr hop]
    exact ⟨rfl, congrArg Code.cmdWord hw⟩
  all_goals rw [hk] at hw
  · rw [decodeCmd_receiveArith hr hop hk]
    exact ⟨rfl, congrArg Code.cmdWord hw⟩
  · rw [decodeCmd_receiveCrc hr hop hk]
    exact ⟨rfl, congrArg Code.cmdWord hw⟩
  · rw [decodeCmd_receiveGmode hr hop hk]
    exact ⟨rfl, congrArg Code.cmdWord hw⟩

theorem decodeCmd_eq_illegal_iff (w : Word) : decodeCmd w = .cmdIllegal w ↔ illegalWord w = true := by
  refine ⟨fun h => ?_, decodeCmd_illegal⟩
  have hwf := (decodeCmd_wf_encode w).1
  rwa [h] at hwf

/-- R92: USE1K is ignored by every word but a TRANSMIT. -/
theorem exec_decodeCmd_ignores_use1k (hr : cmdReserved v = cmdReserved w) (hop : cmdOp v = cmdOp w)
    (hk : cmdCkpref v = cmdCkpref w) (hc : cmdCtrl v = cmdCtrl w) (h : cmdOp w ≠ 2#2) (s : State) :
    exec (decodeCmd v) s = exec (decodeCmd w) s := by
  simp only [decodeCmd, hr, hop, hk, hc, if_neg h]
  repeat' split
  all_goals rfl

/-- R92: CKPREF is ignored by a TRANSMIT. -/
theorem exec_decodeCmd_ignores_ckpref (hr : cmdReserved v = cmdReserved w) (hop : cmdOp v = cmdOp w)
    (hu : cmdUse1k v = cmdUse1k w) (hc : cmdCtrl v = cmdCtrl w) (h : cmdOp w = 2#2) (s : State) :
    exec (decodeCmd v) s = exec (decodeCmd w) s := by
  simp only [decodeCmd, hr, hop, hu, hc, h]
  split <;> rfl

end words

/-! ### Answers that no row lists (R86 to R88) -/

theorem otherThan_iff (l : List Byte) (r : Answer) : otherThan l r = true ↔ ∀ b ∈ l, r ≠ .byte b := by
  cases r with
  | timeout => simp [otherThan]
  | byte b => simp [otherThan, List.forall_mem_ne]

theorem decodeHdr_other {r : Answer} (h : otherThan [Config.soh, Config.stx, Config.eot, Config.can] r = true) :
    decodeHdr r = .rxHdrOther r := by
  cases r <;> simp_all [decodeHdr, otherThan]

theorem decodeNeg_other {r : Answer} (h : otherThan [Config.ascG, Config.ascC, Config.nakByte, Config.can] r = true) :
    decodeNeg r = .txNegOther r := by
  cases r <;> simp_all [decodeNeg, otherThan]

theorem decodeRsp_other {r : Answer} (h : otherThan [Config.ackByte, Config.nakByte, Config.can] r = true) :
    decodeRsp r = .txRspOther r := by
  cases r <;> simp_all [decodeRsp, otherThan]

theorem decodeEot_other {r : Answer} (h : otherThan [Config.ackByte] r = true) :
    decodeEot r = .txEotOther r := by
  cases r <;> simp_all [decodeEot, otherThan]

/-- What the decoder makes of an answer is well formed and encodes back to that answer. -/
theorem decodeAnswer_wf_encode {p : AnswerPoint} {r : Answer} {i : Instr} (h : decodeAnswer p r = .ok i) :
    i.wf = true ∧ encode i = .answer p r := by
  cases r with
  | timeout => cases p <;> cases h <;> exact ⟨rfl, rfl⟩
  | byte b =>
    cases p with
    | body =>
      cases h
      exact ⟨rfl, rfl⟩
    | hdr | neg | rsp | eot =>
      obtain rfl := Except.ok.inj h
      simp only [decodeHdr, decodeNeg, decodeRsp, decodeEot]
      repeat' split
      all_goals
        subst_vars
        simp_all [Instr.wf, otherThan, encode]

/-! ### Sent symbols (R90) -/

theorem decodeSent_wf_encode {p : SentPoint} {bytes : List Byte} {i : Instr} (h : decodeSent p bytes = .ok i) :
    i.wf = true ∧ encode i = .sent p bytes := by
  cases p <;> simp only [decodeSent] at h <;> repeat' split at h
  all_goals cases h
  all_goals
    subst_vars
    exact ⟨rfl, rfl⟩

/-! ### The fields of a frame (R82, R83) -/

theorem decodeFields_append {bs : Nat} {p : List Byte} (q c : Byte) (hp : p.length = bs) (tr : List Byte) :
    decodeFields bs (q :: c :: (p ++ tr)) = (q, c, p, tr) := by
  subst hp
  simp [decodeFields, Nat.add_comm 2]

theorem eq_of_decodeFields {bs : Nat} {rest p tr : List Byte} {q c : Byte}
    (h : decodeFields bs rest = (q, c, p, tr)) (hne : tr ≠ []) :
    rest = q :: c :: (p ++ tr) ∧ p.length = bs := by
  have hlen := length_of_decodeFields h hne
  have htr : rest.drop (2 + bs) = tr := congrArg (fun fields => fields.2.2.2) h
  obtain ⟨q', c', p', h', rfl⟩ := decodeFields_spec bs rest tr htr (by omega)
  rw [h] at h'
  cases h'
  refine ⟨rfl, ?_⟩
  simp only [List.cons_append, List.length_cons, List.length_append] at hlen
  omega

theorem crcBytes_concat (t : U16) : t.extractLsb' 8 8 ++ t.extractLsb' 0 8 = t :=
  (BitVec.extractLsb'_append_extractLsb'_eq_extractLsb' (show 8 = 0 + 8 from rfl)).trans BitVec.extractLsb'_eq_self

/-- What the decoder makes of a frame is well formed and encodes back to that frame. -/
theorem decodeFrame_wf_encode {f : List Byte} {i : Instr} (h : decodeFrame f = .ok i) :
    i.wf = true ∧ encode i = .frame f := by
  cases f with
  | nil => cases h
  | cons b rest =>
    simp only [decodeFrame] at h
    repeat' split at h
    all_goals cases h
    all_goals
      obtain ⟨rfl, hp⟩ := eq_of_decodeFields ‹_› (by simp)
      subst_vars
      simp [Instr.wf, hp, encode, frameOf, crcBytes_append]

/-! ### The two directions -/

theorem encode_of_decode {c : Code} {i : Instr} (h : decode c = .ok i) : i.wf = true ∧ encode i = c := by
  cases c with
  | cmdWord w =>
    cases h
    exact decodeCmd_wf_encode w
  | answer p r => exact decodeAnswer_wf_encode h
  | sent p bytes => exact decodeSent_wf_encode h
  | frame f => exact decodeFrame_wf_encode h

theorem decode_encode {i : Instr} (h : i.wf = true) : decode (encode i) = .ok i := by
  cases i with
  | cmdNop ign =>
    revert ign
    decide
  | cmdReceiveArith u c =>
    change decode (.cmdWord (cmdWordOf c u 0#2 1#2)) = _
    simp [decode, decodeCmd_receiveArith]
  | cmdReceiveCrc u c =>
    change decode (.cmdWord (cmdWordOf c u 1#2 1#2)) = _
    simp [decode, decodeCmd_receiveCrc]
  | cmdReceiveGmode u c =>
    change decode (.cmdWord (cmdWordOf c u 2#2 1#2)) = _
    simp [decode, decodeCmd_receiveGmode]
  | cmdTransmit k u c =>
    change decode (.cmdWord (cmdWordOf c u k 2#2)) = _
    simp [decode, decodeCmd_transmit]
  | cmdIllegal w => exact congrArg Except.ok (decodeCmd_illegal h)
  | rxHdrOther r => exact congrArg Except.ok (decodeHdr_other h)
  | txNegOther r => exact congrArg Except.ok (decodeNeg_other h)
  | txRspOther r => exact congrArg Except.ok (decodeRsp_other h)
  | txEotOther r => exact congrArg Except.ok (decodeEot_other h)
  | frameSohArith q c p t | frameSohCrc q c p t | frameStxArith q c p t | frameStxCrc q c p t =>
    have hf := decodeFields_append q c (beq_iff_eq.mp h)
    simp [decode, encode, decodeFrame, frameOf, crcBytes, hf, crcBytes_concat,
      show ¬ Config.stx = Config.soh by decide]
  | _ => rfl

/-! ### STATUS (R95) -/

theorem toNat_append_eq_add {m n : Nat} (x : BitVec m) (y : BitVec n) :
    (x ++ y).toNat = x.toNat * 2 ^ n + y.toNat := by
  rw [BitVec.toNat_append, ← Nat.shiftLeft_add_eq_or_of_lt y.isLt, Nat.shiftLeft_eq]

theorem State.statusWord_toNat (s : State) :
    s.statusWord.toNat =
      s.busy.toNat + 2 * s.role.bit.toNat + 4 * s.mode.code.toNat + 16 * s.outcome.code.toNat
        + 256 * s.seq.toNat := by
  unfold State.statusWord
  simp only [toNat_append_eq_add, BitVec.toNat_ofBool, BitVec.toNat_ofNat]
  omega

/-! ### Rows at their points -/

section points
variable {s t : State}

/-- R86 to R88: the row of an answer, where its read is decoded. -/
theorem step_answer_row {q : ReadPoint} {a : AnswerPoint} {r : Answer} {i : Instr} {u : State} (hb : s.busy = true)
    (h : s.cs = .answer q r) (ha : q.answerPoint = some a) (hd : decode (.answer a r) = .ok i)
    (he : exec i s = atPoint (s.answering q) u) : step s = .next u := by
  rw [step_answer hb h ha hd, he, (answering_iff s q).mpr ⟨r, h⟩, atPoint_true]

/-- R156: a negotiation byte, in the mode it stands for. -/
theorem emitNeg_at {m : Mode} (b : Byte) (h : s.cs = .rxNeg) (hm : s.mode = m) :
    emitNeg m b s = .next (send b .rxCount s) := by
  simp [emitNeg, h, hm]

theorem execEmitAck_at {site : AckSite} (h : s.cs = .ack site) :
    execEmitAck s = .next (send Config.ackByte (afterAck site s) s) := by
  simp [execEmitAck, h]

theorem execEmitNak_at (h : s.cs = .nak) : execEmitNak s = .next (send Config.nakByte .rxWait s) := by
  simp [execEmitNak, h]

theorem execEmitCan3_at {k : Nat} {o : OutcomeCode} (h : s.cs = .can3 k o) :
    execEmitCan3 s = .next (send Config.can (if k < 2 then .can3 (k + 1) o else .finish o) s) := by
  have hlast : k + 1 < 3 ↔ k < 2 := Nat.succ_lt_succ_iff
  simp only [execEmitCan3, h, Config.canAbortCount, hlast]

theorem execEmitEot_at (h : s.cs = .txSendEot) :
    execEmitEot s = .next (send Config.eot (.check (.before .txEot)) { s with eotn := s.eotn + 1 }) := by
  simp [execEmitEot, h]

/-! ### Sent bytes -/

/-- R90: the byte that the block sends where CS stands; at every other point it sends none. -/
def State.sends (s : State) (b : Byte) : Prop :=
  match s.cs with
  | .rxNeg => negByte s.mode = some b
  | .ack _ => b = Config.ackByte
  | .nak => b = Config.nakByte
  | .can3 _ _ => b = Config.can
  | .txSend i => s.frame.read i = some b
  | .txSendEot => b = Config.eot
  | _ => False

/-- A move that records Tx sends the byte of its point. -/
theorem Moves.sends {b : Byte} (h : Moves s t) (ht : t.hist = .tx b :: s.hist) : s.sends b := by
  have hself : s.hist ≠ .tx b :: s.hist := (List.cons_ne_self _ _).symm
  unfold State.sends
  cases h with
  | negotiated b' hb h =>
    cases ht
    rw [h]
    exact hb
  | frameByteSent i b' h hb =>
    rw [sendFrameByte_hist] at ht
    cases ht
    rw [h]
    exact hb
  | acked _ h | naked h | cancelled _ _ h | eotSent h =>
    cases ht
    rw [h]
  | checked | received | stored | flushed | finished | fetchedNothing | built => cases ht
  | tested => exact absurd ((headerTest_hist s).symm.trans ht) hself
  | classified => exact absurd ((answerPacket_hist _ s).symm.trans ht) hself
  | negotiationTested => exact absurd ((negotiationTest_hist s).symm.trans ht) hself
  | blockChosen => exact absurd ((chooseBlock_hist s).symm.trans ht) hself
  | _ => exact absurd ht hself

/-- What a host access records is no Tx. -/
theorem hostAccess_hist_ne_tx {a : HostAccess} (h : hostAccess a s = .next t) (b : Byte) :
    t.hist ≠ .tx b :: s.hist := by
  obtain ⟨r, -, rfl⟩ | ⟨v, -, hc⟩ | ⟨v, -, rfl⟩ | ⟨r, v, -, -, rfl⟩ := hostAccess_cases h
  · nofun
  · rw [runCode_cmdWord_hist hc]
    nofun
  · nofun
  · nofun

/-- Only a running session sends, and only the byte of its point. -/
theorem step_sends {b : Byte} (hstep : step s = .next t) (ht : t.hist = .tx b :: s.hist) :
    s.busy = true ∧ s.sends b := by
  have hself : s.hist ≠ .tx b :: s.hist := (List.cons_ne_self _ _).symm
  obtain ⟨hc, -⟩ | ⟨-, -, h⟩ | ⟨-, a, -, h⟩ | ⟨-, -, h⟩ | ⟨-, -, h⟩ | ⟨-, -, h⟩ := step_cases hstep
  · exact absurd ((step_hist_of_computing hstep hc).symm.trans ht) hself
  · obtain rfl | ⟨hb, hm⟩ := runPoint_cases h
    · exact absurd ht hself
    · exact ⟨hb, hm.sends (s := popTurn s) ht⟩
  · exact absurd ht (hostAccess_hist_ne_tx (s := popTurn s) h b)
  all_goals
    cases h
    exact absurd ht hself

/-- R156: the mode that a negotiation byte stands for. -/
theorem negByte_cases {m : Mode} {b : Byte} (h : negByte m = some b) :
    (m = .gmode ∧ b = Config.ascG) ∨ (m = .crc ∧ b = Config.ascC) ∨ (m = .arith ∧ b = Config.nakByte) := by
  cases m <;> cases h <;> simp

end points

/-! ### The encodings -/

/-- Settles O1, row by row: the fields of the encoded word, the answers that no other row lists, and the fields of the
encoded frame. -/
theorem decodeOfEncodeIsIdentity : Obligations.DecodeOfEncodeIsIdentity := fun _ => decode_encode

/-- Settles O2, form by form. -/
theorem encodeOfDecodeIsIdentity : Obligations.EncodeOfDecodeIsIdentity := fun _ _ => encode_of_decode

/-- Settles O3: each form is the encoding of its instruction. -/
theorem writtenOutWordsDecode : Obligations.WrittenOutWordsDecode :=
  ⟨decode_encode (i := .cmdReceiveCrc false true) rfl, decode_encode (i := .cmdTransmit 3#2 true true) rfl,
    decode_encode (i := .cmdIllegal 0x0000000D#32) rfl, decode_encode (i := .rxHdrCan) rfl,
    decode_encode (i := .txNegCan) rfl, decode_encode (i := .txRspCan) rfl,
    decode_encode (i := .txEotOther (.byte 0x18#8)) rfl, decode_encode (i := .rxBodyByte 0x18#8) rfl,
    decode_encode (i := .emitCan3) rfl,
    decode_encode (i := .frameSohCrc 0x03#8 0xFC#8 (List.replicate 128 0#8) 0x1234#16)
      (beq_iff_eq.mpr List.length_replicate)⟩

/-- Settles O4, by the fields of the word: what a command ignores is a field that its row's meaning does not read. -/
theorem commandWordTable : Obligations.CommandWordTable := by
  intro w s hw
  have hr : cmdReserved w = 0#26 := cmdReserved_eq_zero_iff.mpr hw
  have hop {x : BitVec 2} (h : w.toNat % 4 = x.toNat) : cmdOp w = x := cmdOp_eq_iff.mpr h
  have hk {x : BitVec 2} (h : w.toNat / 4 % 4 = x.toNat) : cmdCkpref w = x := cmdCkpref_eq_iff.mpr h
  refine ⟨fun h => ⟨?_, fun _ => rfl⟩, fun h h' => ?_, fun h h' => ?_, fun h h' => ?_, fun h _ => ?_,
    fun h => ⟨?_, fun k => ?_⟩⟩
  · exact congrArg Except.ok (decodeCmd_nop hr (hop h))
  · exact congrArg Except.ok (decodeCmd_receiveArith hr (hop h) (hk h'))
  · exact congrArg Except.ok (decodeCmd_receiveCrc hr (hop h) (hk h'))
  · exact congrArg Except.ok (decodeCmd_receiveGmode hr (hop h) (hk h'))
  · have hreceive : cmdOp w = 1#2 := hop h
    obtain ⟨hr', hop', hk', hc'⟩ := use1kBit_fields
    exact exec_decodeCmd_ignores_use1k (by simp [cmdReserved_xor, hr']) (by simp [cmdOp_xor, hop'])
      (by simp [cmdCkpref_xor, hk']) (by simp [cmdCtrl_xor, hc']) (by simp [hreceive]) s
  · exact congrArg Except.ok (decodeCmd_transmit hr (hop h))
  · obtain ⟨hr', hop', hu', hc'⟩ := ckprefBits_fields k
    exact exec_decodeCmd_ignores_ckpref (by simp [cmdReserved_xor, hr']) (by simp [cmdOp_xor, hop'])
      (by simp [cmdUse1k_xor, hu']) (by simp [cmdCtrl_xor, hc']) (hop h) s

/-- Settles O5, by the decoder's own legality test and the row's meaning. -/
theorem illegalCommandWords : Obligations.IllegalCommandWords := by
  intro w s
  refine ⟨?_, fun hb => congrArg Host.Outcome.next (whenIdle_of_idle hb _),
    fun hb => congrArg Host.Outcome.next (if_pos hb)⟩
  simp only [decode, Except.ok.injEq, decodeCmd_eq_illegal_iff, illegalWord_iff, ne_eq, cmdReserved_eq_zero_iff,
    cmdOp_eq_iff, cmdCkpref_eq_iff, BitVec.toNat_ofNat]
  omega

/-- Settles O11, by `State.statusWord_toNat` and the codes of R93 and R96. -/
theorem statusWordFields : Obligations.StatusWordFields := by
  refine ⟨fun s => ?_, fun s hb hr hm ho hs => ?_, fun s hb hr hm ho hs => ?_⟩
  · rw [State.statusWord_toNat]
    congr 4
    · cases s.busy <;> rfl
    · cases s.role <;> rfl
    · cases s.mode <;> rfl
    · cases s.outcome <;> rfl
  · rw [State.statusWord, hb, hr, hm, ho, hs]
    rfl
  · rw [State.statusWord, hb, hr, hm, ho, hs]
    rfl

/-! ### The points -/

/-- Settles O21, answer by answer: the row that the read's table gives it, executed where it is decoded. -/
theorem answersDecide : Obligations.AnswersDecide := by
  intro s r hb
  refine ⟨fun h => ?_, fun h => ?_, fun h => ?_, fun h => ?_⟩
  · split_ifs with h1 h2 h3 h4
    · exact step_answer_row (i := .rxHdrSoh) hb h rfl (by rw [h1]; rfl) rfl
    · exact step_answer_row (i := .rxHdrStx) hb h rfl (by rw [h2]; rfl) rfl
    · exact step_answer_row (i := .rxHdrEot) hb h rfl (by rw [h3]; rfl) rfl
    · exact step_answer_row (i := .rxHdrCan) hb h rfl (by rw [h4]; rfl) rfl
    · have hother := decodeHdr_other (r := r) (by simpa [otherThan_iff] using ⟨h1, h2, h3, h4⟩)
      exact step_answer_row hb h rfl (congrArg _ hother) rfl
  · split_ifs with h1 h2 h3 h4
    · exact step_answer_row (i := .txNegG) hb h rfl (by rw [h1]; rfl) rfl
    · exact step_answer_row (i := .txNegC) hb h rfl (by rw [h2]; rfl) rfl
    · exact step_answer_row (i := .txNegNak) hb h rfl (by rw [h3]; rfl) rfl
    · exact step_answer_row (i := .txNegCan) hb h rfl (by rw [h4]; rfl) rfl
    · have hother := decodeNeg_other (r := r) (by simpa [otherThan_iff] using ⟨h1, h2, h3, h4⟩)
      exact step_answer_row hb h rfl (congrArg _ hother) rfl
  · split_ifs with h1 h2
    · exact step_answer_row (i := .txRspAck) hb h rfl (by rw [h1]; rfl) rfl
    · exact step_answer_row (i := .txRspCan) hb h rfl (by rw [h2]; rfl) rfl
    · by_cases h3 : r = .byte Config.nakByte
      · exact step_answer_row (i := .txRspNak) hb h rfl (by rw [h3]; rfl) rfl
      · have hother := decodeRsp_other (r := r) (by simpa [otherThan_iff] using ⟨h1, h3, h2⟩)
        exact step_answer_row hb h rfl (congrArg _ hother) rfl
  · split_ifs with h1
    · exact step_answer_row (i := .txEotAck) hb h rfl (by rw [h1]; rfl) rfl
    · have hother := decodeEot_other (r := r) ((otherThan_iff _ _).mpr (List.forall_mem_singleton.mpr h1))
      exact step_answer_row hb h rfl (congrArg _ hother) rfl

/-- Settles O23, row by row. -/
theorem emittedSymbolRows : Obligations.EmittedSymbolRows := by
  intro s
  refine ⟨emitNeg_at _, emitNeg_at _, emitNeg_at _, fun site h => ?_, execEmitNak_at, fun k o => execEmitCan3_at,
    execEmitEot_at⟩
  rw [show exec .emitAck s = _ from execEmitAck_at h]
  cases site <;> rfl

/-- Settles O51: the byte of the point that the step stands at, and what the invariant says there. -/
theorem sentBytesByContext : Obligations.SentBytesByContext := by
  intro s t b hI h ht
  obtain ⟨hb, hsent⟩ := step_sends h ht
  refine ⟨hb, ?_⟩
  unfold State.sends at hsent
  split at hsent
  · rename_i hcs
    obtain ⟨⟨hrole, -⟩, hneg, -⟩ : s.receiving ∧ s.neg = true ∧ _ := hI.pointInv_at hcs
    exact .inl ⟨hrole, hneg, hcs, negByte_cases hsent⟩
  · rename_i site hcs
    obtain ⟨⟨hrole, -⟩, hmode⟩ : s.receiving ∧ (site = .accepted ∨ site = .duplicate → s.mode ≠ .gmode) :=
      hI.pointInv_at hcs
    refine .inr (.inl ⟨hrole, hsent, ?_⟩)
    cases site with
    | eot => exact .inl hcs
    | cancel => exact .inr (.inl hcs)
    | accepted => exact .inr (.inr ⟨.inl hcs, hmode (.inl rfl)⟩)
    | duplicate => exact .inr (.inr ⟨.inr hcs, hmode (.inr rfl)⟩)
  · rename_i hcs
    exact .inr (.inr (.inl ⟨(hI.pointInv_at hcs : s.receiving).1, hcs, hsent⟩))
  · rename_i k o hcs
    obtain ⟨hk, ho⟩ : k < 3 ∧ (o = .syncError ∨ (s.role = .receiving ∧ o = .retryExceeded)
      ∨ (s.role = .transmitting ∧ o = .transmitError)) := hI.pointInv_at hcs
    exact .inr (.inr (.inr (.inl ⟨⟨k, o, hcs, hk, ho.imp id (Or.imp And.symm And.symm)⟩, hsent⟩)))
  · rename_i i hcs
    have hbuilt : s.packetBuilt := (hI.pointInv_at hcs : s.packetBuilt ∧ _).1
    exact .inr (.inr (.inr (.inr (.inl ⟨hbuilt.role, i, hcs, hsent⟩))))
  · rename_i hcs
    obtain ⟨⟨hrole, -⟩, hctrl, -⟩ : s.transmitting ∧ s.ctrl = false ∧ _ := hI.pointInv_at hcs
    exact .inr (.inr (.inr (.inr (.inr ⟨hrole, hctrl, hcs, hsent⟩))))
  · exact hsent.elim

end Sys2Proof.Machine

/-! SUPPORT. The checksum engine and the validator: `Sum8` as a sum in the ring of bytes; `CrcStep` as an additive map,
the polynomial's step and one that loses neither state nor byte; that a changed byte shows in both checksums; which
trailers verify; and which part of a frame a flipped bit lands in. -/

namespace Sys2Proof.Machine

/-! ### `Sum8` (R111) -/

/-- Addition of bytes already wraps at 256, so the fold is the ring's own sum. -/
theorem sum8_eq_sum (p : List Byte) : sum8 p = p.sum := List.sum_eq_foldl.symm

theorem sum8_toNat (p : List Byte) : (sum8 p).toNat = (p.map BitVec.toNat).sum % 256 := by
  rw [sum8_eq_sum]
  induction p with
  | nil => rfl
  | cons b p ih => rw [List.sum_cons, BitVec.toNat_add, ih, List.map_cons, List.sum_cons, Nat.add_mod_mod]

theorem sum8_replicate_toNat (n : Nat) (v : Byte) : (sum8 (List.replicate n v)).toNat = n * v.toNat % 256 := by
  rw [sum8_toNat, List.map_replicate, List.sum_replicate, smul_eq_mul]

/-! ### The lines of `CrcStep` and the bit of the polynomial are additive (R112, R114) -/

/-- R112, line 3. -/
def foldHighNibble (c : U16) : U16 := c ^^^ (c.extractLsb' 0 8 >>> 4).setWidth 16

/-- R112, line 4. -/
def foldUpTwelve (c : U16) : U16 := c ^^^ ((c <<< 8) <<< 4)

/-- R112, line 5. -/
def foldUpFive (c : U16) : U16 := c ^^^ (((c.extractLsb' 0 8).setWidth 16 <<< 4) <<< 1)

theorem crcStep_eq_folds (c : U16) (b : Byte) :
    crcStep c b = foldUpFive (foldUpTwelve (foldHighNibble (swapBytes c ^^^ b.setWidth 16))) := rfl

theorem swapBytes_xor (c d : U16) : swapBytes (c ^^^ d) = swapBytes c ^^^ swapBytes d := by
  simp only [swapBytes, BitVec.extractLsb'_xor]
  exact BitVec.xor_append.symm

theorem foldHighNibble_xor (c d : U16) : foldHighNibble (c ^^^ d) = foldHighNibble c ^^^ foldHighNibble d := by
  simp only [foldHighNibble, BitVec.extractLsb'_xor, BitVec.ushiftRight_xor_distrib, BitVec.setWidth_xor]
  ac_rfl

theorem foldUpTwelve_xor (c d : U16) : foldUpTwelve (c ^^^ d) = foldUpTwelve c ^^^ foldUpTwelve d := by
  simp only [foldUpTwelve, BitVec.shiftLeft_xor_distrib]
  ac_rfl

theorem foldUpFive_xor (c d : U16) : foldUpFive (c ^^^ d) = foldUpFive c ^^^ foldUpFive d := by
  simp only [foldUpFive, BitVec.extractLsb'_xor, BitVec.setWidth_xor, BitVec.shiftLeft_xor_distrib]
  ac_rfl

theorem crcStep_xor (c d : U16) (a b : Byte) : crcStep (c ^^^ d) (a ^^^ b) = crcStep c a ^^^ crcStep d b := by
  have hin : swapBytes (c ^^^ d) ^^^ (a ^^^ b).setWidth 16
      = (swapBytes c ^^^ a.setWidth 16) ^^^ (swapBytes d ^^^ b.setWidth 16) := by
    rw [swapBytes_xor, BitVec.setWidth_xor]
    ac_rfl
  simp only [crcStep_eq_folds, hin, foldHighNibble_xor, foldUpTwelve_xor, foldUpFive_xor]

theorem crcBit_eq_xor (c : U16) : crcBit c = (c <<< 1) ^^^ (bif c.msb then 0x1021#16 else 0#16) := by
  unfold crcBit
  cases c.msb with
  | true => rfl
  | false => exact BitVec.xor_zero.symm

/-- Where both top bits are set the polynomial is added twice, which is not at all. -/
theorem crcBit_xor (c d : U16) : crcBit (c ^^^ d) = crcBit c ^^^ crcBit d := by
  have hpoly : ∀ a b : Bool, (bif a ^^ b then 0x1021#16 else 0#16)
      = (bif a then 0x1021#16 else 0#16) ^^^ (bif b then 0x1021#16 else 0#16) := by decide
  rw [crcBit_eq_xor, BitVec.msb_xor, hpoly, BitVec.shiftLeft_xor_distrib, crcBit_eq_xor, crcBit_eq_xor]
  ac_rfl

theorem crcStepBitwise_xor (c d : U16) (a b : Byte) :
    crcStepBitwise (c ^^^ d) (a ^^^ b) = crcStepBitwise c a ^^^ crcStepBitwise d b := by
  have hin : c ^^^ d ^^^ ((a ^^^ b).setWidth 16 <<< 8)
      = (c ^^^ (a.setWidth 16 <<< 8)) ^^^ (d ^^^ (b.setWidth 16 <<< 8)) := by
    rw [BitVec.setWidth_xor, BitVec.shiftLeft_xor_distrib]
    ac_rfl
  simp only [crcStepBitwise, hin, crcBit_xor]

/-! ### The two steps agree (R114)

Both are additive, so they agree everywhere once they agree on each byte of their arguments alone. -/

theorem crcStep_upperByte : ∀ b : Byte, crcStep (b ++ 0#8) 0#8 = crcStepBitwise (b ++ 0#8) 0#8 := by decide

theorem crcStep_lowerByte : ∀ b : Byte, crcStep (0#8 ++ b) 0#8 = crcStepBitwise (0#8 ++ b) 0#8 := by decide

theorem crcStep_inputByte : ∀ b : Byte, crcStep 0#16 b = crcStepBitwise 0#16 b := by decide

theorem u16_eq_upper_xor_lower (c : U16) : ∃ hi lo : Byte, c = (hi ++ 0#8) ^^^ (0#8 ++ lo) :=
  ⟨c.extractLsb' 8 8, c.extractLsb' 0 8, by rw [BitVec.xor_append, BitVec.xor_zero, BitVec.zero_xor, crcBytes_concat]⟩

theorem crcStep_zeroByte (c : U16) : crcStep c 0#8 = crcStepBitwise c 0#8 := by
  obtain ⟨hi, lo, rfl⟩ := u16_eq_upper_xor_lower c
  have hstep := crcStep_xor (hi ++ 0#8) (0#8 ++ lo) 0#8 0#8
  have hbitwise := crcStepBitwise_xor (hi ++ 0#8) (0#8 ++ lo) 0#8 0#8
  rw [BitVec.xor_zero] at hstep hbitwise
  rw [hstep, hbitwise, crcStep_upperByte, crcStep_lowerByte]

theorem crcStep_eq_bitwise (c : U16) (b : Byte) : crcStep c b = crcStepBitwise c b := by
  calc crcStep c b = crcStep (c ^^^ 0#16) (0#8 ^^^ b) := by rw [BitVec.xor_zero, BitVec.zero_xor]
    _ = crcStepBitwise (c ^^^ 0#16) (0#8 ^^^ b) := by
      rw [crcStep_xor, crcStepBitwise_xor, crcStep_zeroByte, crcStep_inputByte]
    _ = crcStepBitwise c b := by rw [BitVec.xor_zero, BitVec.zero_xor]

/-! ### `CrcStep` loses neither the state nor the byte (R118) -/

/-- The polynomial's lowest bit is set, so the bit shifted out comes back as bit 0. -/
theorem crcBit_getLsbD_zero (c : U16) : (crcBit c).getLsbD 0 = c.msb := by
  rw [crcBit_eq_xor]
  cases c.msb <;> simp

theorem crcBit_injective : Function.Injective crcBit := by
  intro c d h
  have hmsb : c.msb = d.msb := by rw [← crcBit_getLsbD_zero, h, crcBit_getLsbD_zero]
  rw [crcBit_eq_xor, crcBit_eq_xor, hmsb] at h
  have hshift : c <<< 1 = d <<< 1 := (BitVec.xor_left_inj _).mp h
  simp only [BitVec.msb_eq_decide, decide_eq_decide] at hmsb
  have hnat := congrArg BitVec.toNat hshift
  simp only [BitVec.toNat_shiftLeft, Nat.shiftLeft_eq] at hnat
  bv_omega

theorem crcStepBitwise_inj {c d : U16} {a b : Byte} :
    crcStepBitwise c a = crcStepBitwise d b ↔ c ^^^ (a.setWidth 16 <<< 8) = d ^^^ (b.setWidth 16 <<< 8) := by
  simp only [crcStepBitwise, crcBit_injective.eq_iff]

theorem crcStep_injective_state (b : Byte) : Function.Injective (crcStep · b) := by
  intro c d h
  simp only [crcStep_eq_bitwise, crcStepBitwise_inj] at h
  exact (BitVec.xor_left_inj _).mp h

theorem crcStep_injective_byte (c : U16) : Function.Injective (crcStep c) := by
  intro a b h
  simp only [crcStep_eq_bitwise, crcStepBitwise_inj] at h
  have hshift := (BitVec.xor_right_inj _).mp h
  bv_omega

/-! ### A flipped bit changes one byte -/

theorem xor_bit_ne {k : Nat} (hk : k < 8) (b : Byte) : b ^^^ (1#8 <<< k) ≠ b := by
  have hbit : 1#8 <<< k ≠ 0#8 := by
    revert k
    decide
  exact fun h => hbit ((BitVec.xor_right_inj b).mp (h.trans BitVec.xor_zero.symm))

@[simp] theorem flipBit_length (l : List Byte) (i k : Nat) : (flipBit l i k).length = l.length :=
  List.length_modify ..

theorem flipBit_ne {l : List Byte} {i k : Nat} (hi : i < l.length) (hk : k < 8) : flipBit l i k ≠ l := by
  intro h
  have hget := congrArg (·[i]?) h
  simp [flipBit, hi, xor_bit_ne hk] at hget

theorem flipBit_append_left {l : List Byte} {i : Nat} (hi : i < l.length) (r : List Byte) (k : Nat) :
    flipBit (l ++ r) i k = flipBit l i k ++ r := by
  induction l generalizing i with
  | nil => exact absurd hi (Nat.not_lt_zero i)
  | cons b l ih =>
    cases i with
    | zero => rfl
    | succ i => exact congrArg (b :: ·) (ih (Nat.lt_of_succ_lt_succ hi))

theorem flipBit_append_right (l r : List Byte) (i k : Nat) :
    flipBit (l ++ r) (l.length + i) k = l ++ flipBit r i k := List.modifyTailIdx_add ..

/-! ### A changed byte shows in the checksum (R118) -/

theorem foldl_injective_state {σ β : Type} {f : σ → β → σ} (hf : ∀ b, Function.Injective (f · b)) (l : List β) :
    Function.Injective (l.foldl f) := by
  induction l with
  | nil => exact Function.injective_id
  | cons b l ih => exact ih.comp (hf b)

/-- A fold whose step loses neither state nor element tells apart two lists that differ in one element. -/
theorem foldl_modify_ne {σ β : Type} {f : σ → β → σ} (hstate : ∀ b, Function.Injective (f · b))
    (helem : ∀ s, Function.Injective (f s)) {g : β → β} (hg : ∀ b, g b ≠ b) {l : List β} {i : Nat}
    (hi : i < l.length) (s : σ) : (l.modify i g).foldl f s ≠ l.foldl f s := by
  obtain ⟨before, b, after, rfl, rfl, hmod⟩ := List.exists_of_modify g hi
  rw [hmod, List.foldl_append, List.foldl_append]
  exact fun h => hg b (helem _ (foldl_injective_state hstate after h))

section payload
variable {p : List Byte} {i k : Nat} (hi : i < p.length) (hk : k < 8)
include hi hk

theorem sum8_flipBit_ne : sum8 (flipBit p i k) ≠ sum8 p :=
  foldl_modify_ne add_left_injective add_right_injective (xor_bit_ne hk) hi _

theorem crc16_flipBit_ne : crc16 (flipBit p i k) ≠ crc16 p :=
  foldl_modify_ne crcStep_injective_state crcStep_injective_byte (xor_bit_ne hk) hi _

end payload

/-! ### Trailer and verify (R115, R116) -/

theorem crcBytes_injective : Function.Injective crcBytes := by
  intro c d h
  obtain ⟨hhi, hlo⟩ : c.extractLsb' 8 8 = d.extractLsb' 8 8 ∧ c.extractLsb' 0 8 = d.extractLsb' 0 8 := by
    simpa [crcBytes] using h
  rw [← crcBytes_concat c, hhi, hlo, crcBytes_concat]

theorem trailer_arith (p : List Byte) : trailer .arith p = [sum8 p] := rfl

theorem trailer_of_ne_arith {m : Mode} (h : m ≠ .arith) (p : List Byte) : trailer m p = crcBytes (crc16 p) := if_neg h

theorem trailer_flipBit_ne (m : Mode) {p : List Byte} {i k : Nat} (hi : i < p.length) (hk : k < 8) :
    trailer m (flipBit p i k) ≠ trailer m p := by
  by_cases hm : m = .arith
  · subst hm
    exact fun h => sum8_flipBit_ne hi hk (List.singleton_inj.mp h)
  · rw [trailer_of_ne_arith hm, trailer_of_ne_arith hm]
    exact fun h => crc16_flipBit_ne hi hk (crcBytes_injective h)

theorem verify_arith (p : List Byte) (c : Byte) : verify .arith p [c] = true ↔ c = sum8 p := beq_iff_eq

theorem verify_of_ne_arith {m : Mode} (h : m ≠ .arith) (p : List Byte) (hi lo : Byte) :
    verify m p [hi, lo] = true ↔ hi ++ lo = crc16 p := by
  rw [← BitVec.toNat_inj, toNat_append_eq_add]
  simp [verify, h]

theorem verify_iff {m : Mode} {p t : List Byte} (ht : t.length = m.trailerSize.bytes) :
    verify m p t = true ↔ t = trailer m p := by
  by_cases hm : m = .arith
  · subst hm
    obtain ⟨c, rfl⟩ := List.length_eq_one_iff.mp ht
    rw [verify_arith, trailer_arith, List.singleton_inj]
  · have htwo : m.trailerSize.bytes = 2 := by rw [Mode.trailerSize, if_neg hm]; rfl
    obtain ⟨hi, lo, rfl⟩ := List.length_eq_two.mp (ht.trans htwo)
    rw [verify_of_ne_arith hm, trailer_of_ne_arith hm, ← crcBytes_append, crcBytes_injective.eq_iff]

/-! ### The validator on a frame's fields (R131, R132, R134) -/

section frames
variable {m : Mode} (hdr q c : Byte) (p t : List Byte)

theorem complementOK_frameOf : complementOK (frameOf hdr q c p t) = true ↔ c = complement q := beq_iff_eq

theorem trailerOK_frameOf (ht : t.length = m.trailerSize.bytes) :
    trailerOK m p.length (frameOf hdr q c p t) = true ↔ t = trailer m p := by
  rw [← verify_iff ht]
  simp [trailerOK, frameOf, ← ht, Nat.add_comm 3]

theorem classify_of_complement_ne (bs : Nat) (exp : Byte) (h : c ≠ complement q) :
    classify m bs (frameOf hdr q c p t) exp = .malformed :=
  if_pos (Bool.eq_false_iff.mpr fun hok => h ((complementOK_frameOf hdr q c p t).mp hok))

theorem classify_of_trailer_ne (exp : Byte) (ht : t.length = m.trailerSize.bytes) (h : t ≠ trailer m p) :
    classify m p.length (frameOf hdr q c p t) exp = .malformed := by
  have hbad : trailerOK m p.length (frameOf hdr q c p t) = false :=
    Bool.eq_false_iff.mpr fun hok => h ((trailerOK_frameOf hdr q c p t ht).mp hok)
  simp [classify, hbad]

/-! ### Where a flipped bit lands in a frame (R82) -/

theorem flipBit_frameOf_seq (k : Nat) :
    flipBit (frameOf hdr q c p t) 1 k = frameOf hdr (q ^^^ (1#8 <<< k)) c p t := rfl

theorem flipBit_frameOf_complement (k : Nat) :
    flipBit (frameOf hdr q c p t) 2 k = frameOf hdr q (c ^^^ (1#8 <<< k)) p t := rfl

theorem flipBit_frameOf_payload {i : Nat} (hi : i < p.length) (k : Nat) :
    flipBit (frameOf hdr q c p t) (3 + i) k = frameOf hdr q c (flipBit p i k) t := by
  unfold frameOf
  rw [List.append_assoc, List.append_assoc, ← flipBit_append_left hi]
  exact flipBit_append_right [hdr, q, c] (p ++ t) i k

theorem flipBit_frameOf_trailer (i k : Nat) :
    flipBit (frameOf hdr q c p t) (3 + p.length + i) k = frameOf hdr q c p (flipBit t i k) := by
  have h := flipBit_append_right ([hdr, q, c] ++ p) t i k
  rwa [List.length_append] at h

end frames

theorem frameIndex_cases {a b j : Nat} (hj : 1 ≤ j) (h : j < 3 + a + b) :
    j = 1 ∨ j = 2 ∨ (∃ i < a, j = 3 + i) ∨ ∃ i < b, j = 3 + a + i := by
  obtain h1 | h2 | h3 | h4 : j = 1 ∨ j = 2 ∨ (3 ≤ j ∧ j < 3 + a) ∨ 3 + a ≤ j := by omega
  · exact .inl h1
  · exact .inr (.inl h2)
  · exact .inr (.inr (.inl ⟨j - 3, by omega, by omega⟩))
  · exact .inr (.inr (.inr ⟨j - (3 + a), by omega, by omega⟩))

theorem complement_injective : Function.Injective complement := fun _ _ h => sub_right_injective h

/-! ### The obligations of the checksum engine -/

/-- Settles O6: `Sum8` is the sum in the ring of bytes, so the order of the bytes and zeros among them do not matter. -/
theorem sum8IsSumModulo256 : Obligations.Sum8IsSumModulo256 := by
  refine ⟨sum8_toNat, fun p q h => ?_, fun p q => ?_, fun v => BitVec.eq_of_toNat_eq ?_, rfl,
    BitVec.eq_of_toNat_eq ?_, by decide⟩
  · rw [sum8_eq_sum, sum8_eq_sum, h.sum_eq]
  · rw [sum8_eq_sum, sum8_eq_sum, List.sum_append, List.sum_cons, List.sum_append, BitVec.zero_add]
  · rw [sum8_replicate_toNat, BitVec.toNat_ofNat]
    omega
  · rw [sum8_replicate_toNat]
    rfl

/-- Settles O7: both steps are additive and agree on each byte of their arguments alone. -/
theorem crcStepIsThePolynomialStep : Obligations.CrcStepIsThePolynomialStep :=
  ⟨crcStep_eq_bitwise, fun p => by
    rw [crc16, show crcStep = crcStepBitwise from funext₂ crcStep_eq_bitwise]⟩

/-- Settles O8: two bytes are the CRC's exactly when they concatenate to it. -/
theorem onlyTheBuiltTrailerVerifies : Obligations.OnlyTheBuiltTrailerVerifies := by
  intro m p _
  refine ⟨fun hm => hm ▸ trailer_arith p, fun hm => ⟨_, _, trailer_of_ne_arith hm p, ?_⟩, fun t ht => ?_⟩
  · exact (toNat_append_eq_add _ _).symm.trans (congrArg BitVec.toNat (crcBytes_concat _))
  · exact verify_iff (ht.trans (trailer_length m p))

/-- Settles O10, by the field that the bit lies in: the complement no longer fits the sequence, or the trailer no longer
fits the payload. -/
theorem oneFlippedBitIsMalformed : Obligations.OneFlippedBitIsMalformed := by
  intro m hdr seq exp p j k _ hj hlen hk
  have htr := trailer_length m p
  rw [validFrame, frameOf_length] at hlen
  unfold validFrame
  obtain rfl | rfl | ⟨i, hi, rfl⟩ | ⟨i, hi, rfl⟩ := frameIndex_cases hj hlen
  · rw [flipBit_frameOf_seq]
    exact classify_of_complement_ne _ _ _ _ _ _ exp fun h => xor_bit_ne hk seq (complement_injective h).symm
  · rw [flipBit_frameOf_complement]
    exact classify_of_complement_ne _ _ _ _ _ _ exp (xor_bit_ne hk _)
  · rw [flipBit_frameOf_payload _ _ _ _ _ hi, ← flipBit_length p i k]
    exact classify_of_trailer_ne _ _ _ _ _ exp htr (trailer_flipBit_ne m hi hk).symm
  · rw [flipBit_frameOf_trailer]
    exact classify_of_trailer_ne _ _ _ _ _ exp ((flipBit_length _ i k).trans htr) (flipBit_ne hi hk)

end Sys2Proof.Machine

/-! SUPPORT. The validator on every frame: which answer the sequence gives once complement and trailer are right. -/

namespace Sys2Proof.Machine

/-! ### The sequence of a well-formed frame (R133, R134) -/

/-- R133: the step back by one from the expected sequence, in the ring of bytes and in its numbers. -/
theorem eq_add_255_iff_toNat (q exp : Byte) : q = exp + 255#8 ↔ q.toNat = (exp.toNat + 255) % 256 :=
  BitVec.toNat_inj.symm

theorem classify_of_complement_trailer {m : Mode} {q c : Byte} {p t : List Byte} (hdr exp : Byte)
    (ht : t.length = m.trailerSize.bytes) (hc : c = complement q) (htr : t = trailer m p) :
    classify m p.length (frameOf hdr q c p t) exp =
      if q = exp then .accepted q else if q = exp + 255#8 then .duplicate else .malformed := by
  have hcpl := (complementOK_frameOf hdr q c p t).mpr hc
  have hok := (trailerOK_frameOf hdr q c p t ht).mpr htr
  have hseq : (frameOf hdr q c p t).getD 1 0#8 = q := rfl
  simp only [classify, hcpl, hok, hseq, Bool.true_eq_false, if_false]

/-! ### The obligation of the validator -/

/-- Settles O9, in the order of R134's tests: a wrong complement and a wrong trailer are each Malformed, and a frame with
both right is classified by its sequence. -/
theorem classifyEveryFrame : Obligations.ClassifyEveryFrame := by
  intro m hdr seq cpl exp p t _ ht
  split
  case isTrue h =>
    obtain ⟨hc, htr⟩ := h
    simp only [classify_of_complement_trailer hdr exp ht hc htr, eq_add_255_iff_toNat]
  case isFalse h =>
    by_cases hc : cpl = complement seq
    · exact classify_of_trailer_ne hdr seq cpl p t exp ht fun htr => h ⟨hc, htr⟩
    · exact classify_of_complement_ne hdr seq cpl p t p.length exp hc

end Sys2Proof.Machine

/-! SUPPORT. Runs of a receiver that is left alone, primitive by primitive: how steps chain, a read between its two
check points, the ends of a session, and the receiver's rows at their points. -/

namespace Sys2Proof.Machine

section runs
variable {s t u : State}

/-! ### Chaining steps -/

theorem steps_cons {n : Nat} (h : step s = .next t) (hn : steps n t = .next u) : steps (n + 1) s = .next u :=
  (steps_of_step n h).trans hn

theorem steps_trans {m n : Nat} (hm : steps m s = .next t) (hn : steps n t = .next u) : steps (m + n) s = .next u :=
  (steps_add m n hm).trans hn

/-- Internal computation performs the primitive where CS stands, whatever the schedule says. -/
theorem step_internal (hb : s.busy = true) (hi : s.cs.internal = true) : step s = runPoint s :=
  step_computing s (s.computing_iff.mpr ⟨hb, hi⟩)

/-! ### Points of internal computation -/

theorem step_rxWait (hb : s.busy = true) (h : s.cs = .rxWait) : step s = .next (enterWait s) :=
  (step_internal hb (by rw [h]; rfl)).trans (runPoint_rxWait hb h)

theorem step_rxTest (hb : s.busy = true) (h : s.cs = .rxTest) : step s = .next (headerTest s) :=
  (step_internal hb (by rw [h]; rfl)).trans (runPoint_rxTest hb h)

theorem step_rxCount (hb : s.busy = true) (h : s.cs = .rxCount) : step s = .next (countAttempt s) :=
  (step_internal hb (by rw [h]; rfl)).trans (runPoint_rxCount hb h)

theorem step_rxCan {r : Answer} (hb : s.busy = true) (h : s.cs = .answer .rxCan r) :
    step s = .next (secondCanRx r s) :=
  (step_internal hb (by rw [h]; rfl)).trans (runPoint_rxCan hb h)

theorem step_bodyTimeout {k : Nat} (hb : s.busy = true) (h : s.cs = .answer (.rxBody k) .timeout) :
    step s = .next (s.goto .nak) :=
  (step_internal hb (by rw [h]; rfl)).trans (runPoint_rxBodyTimeout hb h)

/-- R164: FRAME[0] is an index of FRAME, so the first line of RX_BODY always goes on. -/
theorem step_rxBody (hb : s.busy = true) (h : s.cs = .rxBody) :
    step s = .next
      { s with
        neg := false, tsize := s.mode.trailerSize, cs := .check (.before (.rxBody 0))
        frame := s.frame.writeList 0 [s.hdr] } := by
  rw [step_internal hb (by rw [h]; rfl), runPoint_rxBody hb h, enterBody,
    memWrite_eq_ok 0 [s.hdr] _ (by simp [Config.frameBytes])]
  rfl

/-! ### Check points and reads of a block left alone -/

theorem step_check_listed {c : CheckPoint} {v : Bool} {samples : List Bool} (hb : s.busy = true)
    (hu : s.undisturbed) (h : s.cs = .check c) (ha : s.abort = v :: samples) :
    step s = .next
      { s with
        abort := samples, hist := .abortSample v :: s.hist
        cs := if v then .finish .userAborted else c.onward } := by
  rw [step_undisturbed hu, runPoint_check hb h, checkAbort_listed c s v samples ha]

theorem step_recv_listed {p : ReadPoint} {r : Answer} {answers : List Answer} (hb : s.busy = true)
    (hu : s.undisturbed) (h : s.cs = .recv p) (hr : s.rx = r :: answers) :
    step s = .next { s with rx := answers, hist := .rx p.timer r :: s.hist, cs := .check (.after p r) } := by
  rw [step_undisturbed hu, runPoint_recv hb h, receive_listed p s r answers hr]

/-- R281: a read stands between two check points; with both samples 0 its answer is decoded next. -/
theorem steps_read {p : ReadPoint} {r : Answer} {answers : List Answer} {samples : List Bool} (hb : s.busy = true)
    (hu : s.undisturbed) (h : s.cs = .check (.before p)) (hr : s.rx = r :: answers)
    (ha : s.abort = false :: false :: samples) :
    steps 3 s = .next
      { s with
        rx := answers, abort := samples, cs := .answer p r
        hist := .abortSample false :: .rx p.timer r :: .abortSample false :: s.hist } :=
  steps_cons (step_check_listed hb hu h ha) <| steps_cons (step_recv_listed hb hu rfl hr) <|
    steps_cons (step_check_listed hb hu rfl rfl) rfl

/-! ### Sent symbols, flushes and the end of a session -/

theorem step_ack {site : AckSite} (hb : s.busy = true) (hu : s.undisturbed) (h : s.cs = .ack site) :
    step s = .next { s with hist := .tx Config.ackByte :: s.hist, cs := afterAck site s } :=
  (step_undisturbed hu).trans (runPoint_ack hb h)

theorem step_nak (hb : s.busy = true) (hu : s.undisturbed) (h : s.cs = .nak) :
    step s = .next { s with hist := .tx Config.nakByte :: s.hist, cs := .rxWait } :=
  (step_undisturbed hu).trans (runPoint_nak hb h)

theorem step_can3 {k : Nat} {o : OutcomeCode} (hb : s.busy = true) (hu : s.undisturbed) (h : s.cs = .can3 k o) :
    step s = .next
      { s with
        hist := .tx Config.can :: s.hist
        cs := if k + 1 < Config.canAbortCount then .can3 (k + 1) o else .finish o } :=
  (step_undisturbed hu).trans (runPoint_can3 hb h)

theorem step_flush {site : FlushSite} (hb : s.busy = true) (hu : s.undisturbed) (h : s.cs = .flush site) :
    step s = .next { s with hist := .rxFlush :: s.hist, cs := afterFlush site } :=
  (step_undisturbed hu).trans (runPoint_flush hb h)

theorem step_finish {o : OutcomeCode} (hb : s.busy = true) (hu : s.undisturbed) (h : s.cs = .finish o) :
    step s = .next { s with outcome := o, busy := false, cs := .idle, hist := .finish o s.bytes :: s.hist } :=
  (step_undisturbed hu).trans (runPoint_finish hb h)

/-- R303: the three CANs, then `Terminate`. -/
theorem steps_can3 {o : OutcomeCode} (hb : s.busy = true) (hu : s.undisturbed) (h : s.cs = .can3 0 o) :
    steps 4 s = .next
      { s with
        outcome := o, busy := false, cs := .idle
        hist := .finish o s.bytes :: .tx 0x18#8 :: .tx 0x18#8 :: .tx 0x18#8 :: s.hist } :=
  steps_cons (step_can3 hb hu h) <| steps_cons (step_can3 hb hu rfl) <| steps_cons (step_can3 hb hu rfl) <|
    steps_cons (step_finish hb hu rfl) rfl

/-- R166: the timeout of a body read, the NAK and the next header wait's first line. -/
theorem steps_bodyTimeout {k : Nat} (hb : s.busy = true) (hu : s.undisturbed)
    (h : s.cs = .answer (.rxBody k) .timeout) :
    steps 2 s = .next { s with cs := .rxWait, hist := .tx 0x15#8 :: s.hist } :=
  steps_cons (step_bodyTimeout hb h) <| steps_cons (step_nak hb hu rfl) rfl

/-! ### The header wait -/

theorem headerTest_attempt (h : s.att ≠ 16) : headerTest s = s.goto (if s.neg then .rxNeg else .rxCount) := if_neg h

theorem headerTest_gmode (ha : s.att = 16) (hn : s.neg = true) (hm : s.mode = .gmode) :
    headerTest s = { s with mode := .crc, att := 0, cs := .check (.head .rxHead) } := by
  simp [headerTest, ha, hn, hm, Config.negAttempts]

theorem headerTest_crc (ha : s.att = 16) (hn : s.neg = true) (hm : s.mode = .crc) :
    headerTest s = { s with mode := .arith, att := 0, cs := .check (.head .rxHead) } := by
  simp [headerTest, ha, hn, hm, Config.negAttempts]

theorem headerTest_exhausted (ha : s.att = 16) (h : s.neg = false ∨ (s.mode ≠ .gmode ∧ s.mode ≠ .crc)) :
    headerTest s = s.goto (.can3 0 .syncError) := by
  obtain hn | ⟨hg, hc⟩ := h
  · simp [headerTest, ha, hn, Config.negAttempts]
  · simp [headerTest, ha, hg, hc, Config.negAttempts]

/-- R161: any second answer but a CAN is dropped. -/
theorem secondCanRx_other {r : Answer} (h : r ≠ .byte 0x18#8) : secondCanRx r s = s.goto (.check (.head .rxHead)) :=
  congrArg s.goto (if_neg h)

end runs

/-! ### The obligations of one or a few steps -/

/-- Settles O18: the sample leads to `Terminate`, which is the next step. -/
theorem abortSampleEndsTheSession : Obligations.AbortSampleEndsTheSession := fun _ _ _ hb h ha hu =>
  steps_cons (step_check_listed hb hu h ha) <| steps_cons (step_finish hb hu rfl) rfl

/-- Settles O20: at its read each row's point test holds, and what is left is the row's own meaning. -/
theorem answerRowEffects : Obligations.AnswerRowEffects := by
  intro s r r'
  have hrow {q : ReadPoint} (h : s.cs = .answer q r) (u : State) : atPoint (s.answering q) u = .next u := by
    rw [(answering_iff s q).mpr ⟨r, h⟩, atPoint_true]
  exact ⟨fun h => ⟨hrow h _, hrow h _, hrow h _, hrow h _, hrow h _⟩,
    fun h => ⟨hrow h _, hrow h _, hrow h _, hrow h _, hrow h _⟩,
    fun h => ⟨hrow h _, hrow h _, hrow h _, hrow h _⟩, fun h => ⟨hrow h _, hrow h _⟩⟩

/-- Settles O22, by the three internal points of the loop and the cases of its test. -/
theorem headerWaitExhaustion : Obligations.HeaderWaitExhaustion := by
  intro s hb
  refine ⟨step_rxWait hb, fun h => ?_, step_rxCount hb⟩
  rw [step_rxTest hb h]
  exact ⟨fun ha => congrArg _ (headerTest_attempt ha), fun ha hn hm => congrArg _ (headerTest_gmode ha hn hm),
    fun ha hn hm => congrArg _ (headerTest_crc ha hn hm), fun ha hx => congrArg _ (headerTest_exhausted ha hx)⟩

/-- Settles O24: the row of EOT, its ACK and `Terminate`. -/
theorem eotEndsTheReceiverDone : Obligations.EotEndsTheReceiverDone := fun _ hb hu h =>
  steps_cons (step_answer_row (i := .rxHdrEot) hb h rfl rfl rfl) <| steps_cons (step_ack hb hu rfl) <|
    steps_cons (step_finish hb hu rfl) rfl

/-- Settles O25: the row of CAN, and the two answers that the second read tells apart. -/
theorem canCanCancelsTheReceiver : Obligations.CanCanCancelsTheReceiver := by
  intro s hb
  refine ⟨fun h => step_answer_row (i := .rxHdrCan) hb h rfl rfl rfl, fun hu h => ?_, fun r h hr => ?_⟩
  · exact steps_cons (step_rxCan hb h) <| steps_cons (step_flush hb hu rfl) <| steps_cons (step_ack hb hu rfl) <|
      steps_cons (step_finish hb hu rfl) rfl
  · exact (step_rxCan hb h).trans (congrArg _ (secondCanRx_other hr))

/-- Settles O26, by `step_rxBody` and a read after a write of one byte. -/
theorem bodyEntryEndsNegotiation : Obligations.BodyEntryEndsNegotiation := by
  intro s hb h
  refine ⟨_, step_rxBody hb h, rfl, ?_, fun a ha => ?_⟩
  · exact (Memory.read_writeList_one _ 0 0 _).trans (if_pos rfl)
  · exact (Memory.read_writeList_one _ 0 a _).trans (if_neg ha)

/-- Settles O28: the timeout's NAK, then the first line of the new header wait. -/
theorem bodyTimeoutIsNaked : Obligations.BodyTimeoutIsNaked := fun _ _ hb hu h =>
  steps_trans (m := 2) (n := 1) (steps_bodyTimeout hb hu h) <| steps_cons (step_rxWait hb rfl) rfl

/-- Settles O31, by `steps_can3`, which the flush of retry-exceeded leads to. -/
theorem fatalAbortSequences : Obligations.FatalAbortSequences := fun _ _ hb hu =>
  ⟨steps_can3 hb hu, fun h => steps_cons (step_flush hb hu h) (steps_can3 hb hu rfl)⟩

end Sys2Proof.Machine

/-! SUPPORT. A packet at the receiver: a body byte, the rest of a body read by a block that is left
alone, the classification of a frame by its row, and the store of an accepted packet. -/

namespace Sys2Proof.Machine

/-! ### FRAME as it is filled byte by byte -/

/-- Writing a list is writing its first byte and then the others behind it. -/
theorem Memory.read_writeList_cons (m : Memory) (i j : Nat) (b : Byte) (l : List Byte) :
    (m.writeList i (b :: l)).read j = ((m.writeList i [b]).writeList (i + 1) l).read j := by
  rw [Memory.read_writeList, Memory.read_writeList, Memory.read_writeList_one]
  obtain hj | rfl | hj : j < i ∨ j = i ∨ i < j := by omega
  · rw [if_neg (by omega), if_neg (by omega), if_neg (by omega)]
  · simp
  · have hrange : (i ≤ j ∧ j < i + (b :: l).length) ↔ (i + 1 ≤ j ∧ j < i + 1 + l.length) := by
      rw [List.length_cons]
      omega
    simp only [hrange, hj.ne', if_false, show j - i = j - (i + 1) + 1 by omega, List.getElem?_cons_succ]

/-- `MemRead` of a frame buffer depends on its reads alone. -/
theorem Memory.readList_congr {m m' : Memory} (h : ∀ j, m.read j = m'.read j) (i n : Nat) :
    m.readList i n = m'.readList i n := by
  induction n generalizing i with
  | zero => rfl
  | succ n ih => rw [Memory.readList, Memory.readList, h, ih]

/-- A part of what was read is read there. -/
theorem Memory.readList_part {m : Memory} {n : Nat} {f : List Byte} (h : m.readList 0 n = some f) {i c : Nat}
    (hc : i + c ≤ n) : m.readList i c = some ((f.drop i).take c) := by
  obtain ⟨hlen, hread⟩ := (Memory.readList_eq_some_iff _ _ _ _).mp h
  refine (Memory.readList_eq_some_iff _ _ _ _).mpr ⟨?_, fun k hk => ?_⟩
  · rw [List.length_take, List.length_drop]
    omega
  · rw [List.getElem?_take, if_pos hk, List.getElem?_drop, ← hread (i + k) (by omega), Nat.zero_add]

section packet
variable {s : State}

/-! ### A body byte -/

theorem execRxBodyByte_at {k : Nat} {r : Answer} (h : s.cs = .answer (.rxBody k) r) (hk : 1 + k < 1029) (b : Byte) :
    execRxBodyByte b s = .next { s with frame := s.frame.writeList (1 + k) [b], cs := afterBodyByte k s } := by
  have hfit : 1 + k + [b].length ≤ Config.frameBytes := hk
  simp only [execRxBodyByte, h, memWrite_eq_ok _ _ _ hfit]
  rfl

theorem execRxBodyByte_beyond {k : Nat} {r : Answer} (h : s.cs = .answer (.rxBody k) r) (hk : 1029 ≤ 1 + k)
    (b : Byte) : execRxBodyByte b s = .fault (.frameIndex (1 + k)) := by
  have hfit : ¬ 1 + k + [b].length ≤ Config.frameBytes := Nat.not_le.mpr (Nat.lt_succ_of_le hk)
  simp only [execRxBodyByte, h, memWrite, if_neg hfit]
  rfl

theorem step_bodyByte {k : Nat} {b : Byte} (hb : s.busy = true) (h : s.cs = .answer (.rxBody k) (.byte b))
    (hk : 1 + k < 1029) :
    step s = .next { s with frame := s.frame.writeList (1 + k) [b], cs := afterBodyByte k s } := by
  rw [step_internal hb (by rw [h]; rfl), runPoint_rxBodyByte hb h]
  exact execRxBodyByte_at h hk b

theorem bodyLength_lt_frameBytes (b : BlockSize) (t : TrailerSize) : bodyLength b t < 1029 := by
  cases b <;> cases t <;> decide

/-- R165: a body byte is read and stored in four steps. -/
theorem steps_bodyByte {k : Nat} {b : Byte} {answers : List Answer} {samples : List Bool} {c : Cs}
    (hb : s.busy = true) (hu : s.undisturbed) (h : s.cs = .check (.before (.rxBody k)))
    (hr : s.rx = .byte b :: answers) (ha : s.abort = false :: false :: samples) (hk : 1 + k < 1029)
    (hc : afterBodyByte k s = c) :
    steps 4 s = .next
      { s with
        rx := answers, abort := samples, cs := c, frame := s.frame.writeList (1 + k) [b]
        hist := .abortSample false :: .rx .tByte (.byte b) :: .abortSample false :: s.hist } := by
  subst hc
  exact steps_trans (m := 3) (n := 1) (steps_read hb hu h hr ha) (steps_cons (step_bodyByte hb rfl hk) rfl)

/-- R165: the rest of a body, up to the classification; FRAME is as if it had been written at once. -/
theorem steps_body {rest : List Answer} {samples : List Bool} {l : List Byte} (hl : l ≠ []) {k : Nat}
    (hb : s.busy = true) (hu : s.undisturbed) (h : s.cs = .check (.before (.rxBody k)))
    (hk : k + l.length = bodyLength s.bsize s.tsize) (hr : s.rx = l.map Answer.byte ++ rest)
    (ha : s.abort = List.replicate (2 * l.length) false ++ samples) :
    ∃ frame hist, (∀ j, frame.read j = (s.frame.writeList (1 + k) l).read j)
      ∧ steps (4 * l.length) s = .next
        { s with rx := rest, abort := samples, cs := .rxClassify, frame := frame, hist := hist } := by
  induction l generalizing s k with
  | nil => exact absurd rfl hl
  | cons b l ih =>
    have hfit := bodyLength_lt_frameBytes s.bsize s.tsize
    rw [List.length_cons] at hk
    cases l with
    | nil =>
      have hlast : afterBodyByte k s = .rxClassify := if_neg (Nat.not_lt.mpr hk.ge)
      exact ⟨_, _, fun j => rfl, steps_bodyByte hb hu h hr ha (by omega) hlast⟩
    | cons b' l =>
      have hmore : afterBodyByte k s = .check (.before (.rxBody (k + 1))) :=
        if_pos (by rw [← hk, List.length_cons]; omega)
      have hstored := steps_bodyByte hb hu h hr ha (by omega) hmore
      obtain ⟨frame, hist, hframe, hsteps⟩ := ih (List.cons_ne_nil b' l) (k := k + 1)
        (s := { s with
          rx := (b' :: l).map Answer.byte ++ rest, abort := List.replicate (2 * (b' :: l).length) false ++ samples
          cs := .check (.before (.rxBody (k + 1))), frame := s.frame.writeList (1 + k) [b]
          hist := .abortSample false :: .rx .tByte (.byte b) :: .abortSample false :: s.hist })
        hb hu rfl ((Nat.succ_add_eq_add_succ k _).trans hk) rfl rfl
      refine ⟨frame, hist, fun j => ?_, ?_⟩
      · rw [Memory.read_writeList_cons]
        exact hframe j
      · rw [List.length_cons, Nat.mul_succ, Nat.add_comm]
        exact steps_trans hstored hsteps

/-! ### The classification (R167 to R173) -/

/-- R133: a sequence one behind the expected one. -/
theorem toNat_eq_pred_iff (q exp : Byte) : q.toNat = (exp.toNat + 255) % 256 ↔ q + 1#8 = exp := by bv_omega

/-- R167 to R173: a frame of the session's sizes where it is classified. -/
theorem runFrame_classify {q c : Byte} {p tr : List Byte} (hdr : Byte) (h : s.cs = .rxClassify) (hm : s.mode ≠ .none)
    (hp : p.length = s.bsize.bytes) (ht : tr.length = s.mode.trailerSize.bytes) :
    runFrame s.bsize s.tsize (frameOf hdr q c p tr) s = .next
      (if (c = 255#8 - q ∧ tr = trailer s.mode p) ∧ q = s.seq then { s with cs := .rxStore }
      else { s with
        guard := s.guard + 1
        cs := if s.guard + 1 = 25 then .flush .retryExceeded
          else if (c = 255#8 - q ∧ tr = trailer s.mode p) ∧ q + 1#8 = s.seq then
            (if s.mode = .gmode then .rxWait else .ack .duplicate)
          else .nak }) := by
  have hrun : runFrame s.bsize s.tsize (frameOf hdr q c p tr) s
      = .next (answerPacket (classify s.mode p.length (frameOf hdr q c p tr) s.seq) s) := by
    simp [runFrame, h, hp]
  rw [hrun, classifyEveryFrame s.mode hdr q c s.seq p tr hm ht]
  simp only [toNat_eq_pred_iff]
  by_cases hok : c = 255#8 - q ∧ tr = trailer s.mode p
  · by_cases hq : q = s.seq
    · simp only [hok, hq, and_self, if_true]
      rfl
    · by_cases hdup : q + 1#8 = s.seq
      · simp only [hok, hq, hdup, and_self, and_false, if_true, if_false]
        rfl
      · simp only [hok, hq, hdup, and_self, and_false, if_true, if_false]
        rfl
  · simp only [hok, false_and, if_false]
    rfl

end packet

/-! ### The obligations -/

/-- Settles O27, by `execRxBodyByte_at` and a read after a write of one byte; past FRAME the write faults. -/
theorem bodyByteIsStored : Obligations.BodyByteIsStored := by
  intro s k b r h
  refine ⟨fun hk => ⟨_, execRxBodyByte_at h hk b, rfl, ?_, fun a ha => ?_⟩,
    fun hk => execRxBodyByte_beyond h hk b⟩
  · exact (Memory.read_writeList_one _ (1 + k) (1 + k) b).trans (if_pos rfl)
  · exact (Memory.read_writeList_one _ (1 + k) a b).trans (if_neg ha)

/-- Settles O29: each row is a frame of the session's sizes, and its trailer is right exactly when its checksum is. -/
theorem frameRowsClassify : Obligations.FrameRowsClassify := by
  intro s seq cpl sum crc p h hp
  constructor
  · intro hm ht i hi
    have hrun : exec i s = runFrame s.bsize s.tsize (frameOf s.bsize.header seq cpl p [sum]) s := by
      obtain ⟨hb, rfl⟩ | ⟨hb, rfl⟩ := hi <;> rw [hb, ht] <;> rfl
    rw [hrun, runFrame_classify _ h (by simp [hm]) hp (by rw [hm]; rfl)]
    simp [hm, trailer_arith, and_assoc]
  · intro hm ht i hi
    have hna : s.mode ≠ .arith := by obtain hm | hm := hm <;> simp [hm]
    have hnn : s.mode ≠ .none := by obtain hm | hm := hm <;> simp [hm]
    have hrun : exec i s = runFrame s.bsize s.tsize (frameOf s.bsize.header seq cpl p (crcBytes crc)) s := by
      obtain ⟨hb, rfl⟩ | ⟨hb, rfl⟩ := hi <;> rw [hb, ht] <;> rfl
    rw [hrun, runFrame_classify _ h hnn hp (by rw [Mode.trailerSize, if_neg hna]; rfl)]
    simp only [trailer_of_ne_arith hna, crcBytes_injective.eq_iff, and_assoc]

/-- Settles O30: the payload bytes that are due are read from FRAME[3], and `LIMIT - BYTES` does not wrap. -/
theorem acceptedPacketIsDelivered : Obligations.AcceptedPacketIsDelivered := by
  intro s l hb ht h hle hl
  have hcount : s.storeCount = min s.bsize.bytes (s.limit.toNat - s.bytes.toNat) := by
    rw [State.storeCount, State.remaining_eq hle]
  have hread : memRead 3 s.storeCount (popTurn s) = .ok l := (memRead_eq_ok_iff _ _ _ _).mpr (hcount ▸ hl)
  rw [step_seq s (by simp [State.computing, h, Cs.internal]) ht, runPoint_rxStore (s := popTurn s) hb h, ← hcount]
  simp only [storePacket, State.storeCount_popTurn, hread]
  rfl

end Sys2Proof.Machine

/-! SUPPORT. A whole packet, and a header with a timed-out body, at a receiver that is left alone. -/

namespace Sys2Proof.Machine

section packet
variable {s : State}

/-- R82: a built frame begins with its header byte. -/
theorem validFrame_eq_cons (m : Mode) (hdr q : Byte) (p : List Byte) :
    validFrame m hdr q p = hdr :: (validFrame m hdr q p).tail := rfl

/-- R83, R165: what follows the header byte is as long as a body. -/
theorem validFrame_tail_length (m : Mode) (hdr q : Byte) {p : List Byte} {bs : BlockSize} (hp : p.length = bs.bytes) :
    (validFrame m hdr q p).tail.length = bodyLength bs m.trailerSize := by
  rw [List.length_tail, validFrame, frameOf_length, trailer_length, hp, bodyLength]
  omega

/-- R74, R171: the first payload bytes of a built frame. -/
theorem validFrame_payload (m : Mode) (hdr q : Byte) {p : List Byte} {n : Nat} (hn : n ≤ p.length) :
    ((validFrame m hdr q p).drop 3).take n = p.take n := by
  have hdrop : (validFrame m hdr q p).drop 3 = p ++ trailer m p := rfl
  rw [hdrop, List.take_append_of_le_length hn]

/-- R164, R165: a body read from its first line to the classification; FRAME then holds the whole frame. -/
theorem steps_packet {rest : List Answer} {samples : List Bool} {l : List Byte} (hb : s.busy = true)
    (hu : s.undisturbed) (h : s.cs = .rxBody) (hl : l.length = bodyLength s.bsize s.mode.trailerSize)
    (hr : s.rx = l.map Answer.byte ++ rest) (ha : s.abort = List.replicate (2 * l.length) false ++ samples) :
    ∃ frame hist, frame.readList 0 (l.length + 1) = some (s.hdr :: l)
      ∧ steps (4 * l.length + 1) s = .next
        { s with
          neg := false, tsize := s.mode.trailerSize, rx := rest, abort := samples, cs := .rxClassify, frame := frame
          hist := hist } := by
  have hne : l ≠ [] := List.ne_nil_of_length_pos (hl ▸ bodyLength_pos _ _)
  obtain ⟨frame, hist, hframe, hsteps⟩ := steps_body hne (k := 0)
    (s := { s with
      neg := false, tsize := s.mode.trailerSize, cs := .check (.before (.rxBody 0))
      frame := s.frame.writeList 0 [s.hdr] })
    hb hu rfl ((Nat.zero_add _).trans hl) hr ha
  refine ⟨frame, hist, ?_, steps_cons (step_rxBody hb h) hsteps⟩
  rw [Memory.readList_congr fun j => (hframe j).trans (Memory.read_writeList_cons ..).symm]
  exact Memory.readList_writeList s.frame 0 (s.hdr :: l)

/-- R167: the frame a transmitter builds with the expected sequence is accepted. -/
theorem step_classify_validFrame {p : List Byte} (hb : s.busy = true) (h : s.cs = .rxClassify)
    (hm : s.mode ≠ .none) (hp : p.length = s.bsize.bytes)
    (hf : s.frame.readList 0 (frameLength s.bsize s.tsize) = some (validFrame s.mode s.bsize.header s.seq p)) :
    step s = .next { s with cs := .rxStore } := by
  rw [step_internal hb (by rw [h]; rfl), runPoint_frame hb (.inl h) hf rfl, validFrame,
    runFrame_classify _ h hm hp (trailer_length _ _)]
  exact congrArg _ (if_pos ⟨⟨rfl, rfl⟩, rfl⟩)

/-- R167, R170, R171: such a frame's payload is stored, up to the limit. -/
theorem steps_accept {p : List Byte} (hb : s.busy = true) (hu : s.undisturbed) (h : s.cs = .rxClassify)
    (hm : s.mode ≠ .none) (hle : s.bytes.toNat ≤ s.limit.toNat) (hp : p.length = s.bsize.bytes)
    (hf : s.frame.readList 0 (frameLength s.bsize s.tsize) = some (validFrame s.mode s.bsize.header s.seq p)) :
    steps 2 s = .next
      { s with
        bytes := s.bytes + BitVec.ofNat 32 (min s.bsize.bytes (s.limit.toNat - s.bytes.toNat))
        seq := s.seq + 1#8, guard := 0, sched := s.sched.tail
        hist := .store (p.take (s.limit.toNat - s.bytes.toNat)) :: s.hist
        cs := if s.mode = .gmode then (if s.ctrl then .finish .done else .rxWait) else .ack .accepted } := by
  have hpayload : s.frame.readList 3 (min s.bsize.bytes (s.limit.toNat - s.bytes.toNat))
      = some (p.take (s.limit.toNat - s.bytes.toNat)) := by
    rw [Memory.readList_part hf (by unfold frameLength; omega), validFrame_payload _ _ _ (by omega), ← hp,
      min_comm, ← List.take_eq_take_min]
  exact steps_cons (step_classify_validFrame hb h hm hp hf) <|
    steps_cons (acceptedPacketIsDelivered _ _ hb (undisturbed_turn hu) rfl hle hpayload) (steps_zero _)

end packet

/-- Settles O32: the body fills FRAME, which then holds the frame that is accepted and stored. -/
theorem validPacketReachesTheSink : Obligations.ValidPacketReachesTheSink := by
  intro s p rest samples hb hu h hm hhdr hle hp hr ha
  have hlen := validFrame_tail_length s.mode s.hdr s.seq hp
  obtain ⟨frame, hist, hframe, hbody⟩ := steps_packet hb hu h hlen hr ha
  rw [← validFrame_eq_cons] at hframe
  have hread : frame.readList 0 (frameLength s.bsize s.mode.trailerSize)
      = some (validFrame s.mode s.bsize.header s.seq p) := by
    rwa [frameLength_eq_bodyLength, ← hlen, ← hhdr]
  have hdue : s.bytes.toNat + min s.bsize.bytes (s.limit.toNat - s.bytes.toNat) ≤ s.limit.toNat := by omega
  refine ⟨_, steps_trans (n := 2) hbody (steps_accept hb hu rfl hm hle hp hread), rfl, ?_, rfl, rfl, rfl, rfl, rfl,
    rfl, rfl, hb, rfl, hframe⟩
  rw [hp]
  exact State.toNat_bytes_add hdue

/-- R153: an attempt that sends no negotiation byte. -/
theorem step_rxTest_attempt {s : State} (hb : s.busy = true) (h : s.cs = .rxTest) (ha : s.att ≠ 16)
    (hn : s.neg = false) : step s = .next { s with cs := .rxCount } := by
  have hcount : (if s.neg then Cs.rxNeg else .rxCount) = .rxCount := by rw [hn]; rfl
  rw [step_rxTest hb h, headerTest_attempt ha, hcount]
  rfl

/-- R153, R157: the first attempt of a header wait that sends no negotiation byte, up to its answer. -/
theorem steps_headerRead {s : State} {r : Answer} {answers : List Answer} {samples : List Bool} (hb : s.busy = true)
    (hu : s.undisturbed) (h : s.cs = .rxWait) (hn : s.neg = false) (hr : s.rx = r :: answers)
    (ha : s.abort = false :: false :: false :: samples) :
    steps 7 s = .next
      { s with
        att := 1, rx := answers, abort := samples, cs := .answer .rxHdr r
        hist := .abortSample false :: .rx .tHdr r :: .abortSample false :: .abortSample false :: s.hist } :=
  steps_cons (step_rxWait hb h) <| steps_cons (step_check_listed hb hu rfl ha) <|
    steps_cons (step_rxTest_attempt hb rfl nofun hn) <| steps_cons (step_rxCount hb rfl) <|
    steps_read hb hu rfl hr rfl

/-- R152, R158, R164, R166: what a SOH whose body times out at once makes of a receiver at RX_WAIT, where these answers
and samples are left. -/
def State.bodyTimedOut (s : State) (answers : List Answer) (samples : List Bool) : State :=
  { s with
    att := 1, neg := false, hdr := 0x01#8, bsize := .small, tsize := s.mode.trailerSize
    frame := s.frame.writeList 0 [0x01#8], rx := answers, abort := samples, cs := .rxWait
    hist := .tx 0x15#8 :: .abortSample false :: .rx .tByte .timeout :: .abortSample false :: .abortSample false
      :: .rx .tHdr (.byte 0x01#8) :: .abortSample false :: .abortSample false :: s.hist }

/-- R152, R166: a header and the timeout of its body, from one header wait to the next. -/
theorem steps_bodyTimedOut {s : State} {answers : List Answer} {samples : List Bool} (hb : s.busy = true)
    (hu : s.undisturbed) (h : s.cs = .rxWait) (hn : s.neg = false)
    (hr : s.rx = .byte 0x01#8 :: .timeout :: answers)
    (ha : s.abort = false :: false :: false :: false :: false :: samples) :
    steps 14 s = .next (s.bodyTimedOut answers samples) := by
  refine steps_trans (m := 7) (n := 7) (steps_headerRead hb hu h hn hr ha) ?_
  refine steps_cons (step_answer_row (i := .rxHdrSoh) hb rfl rfl rfl rfl) <| steps_cons (step_rxBody hb rfl) ?_
  refine steps_trans (m := 3) (n := 2) (steps_read hb hu rfl rfl rfl) ?_
  exact steps_bodyTimeout hb hu rfl

/-- Settles O59, by induction on the number of timed-out bodies. -/
theorem bodyTimeoutsNeverEndTheSession : Obligations.BodyTimeoutsNeverEndTheSession := by
  intro n
  induction n with
  | zero =>
    intro s answers samples hb _ h hn hr ha
    exact ⟨s, rfl, hb, h, hr, ha, rfl, rfl, rfl, rfl, hn, rfl⟩
  | succ n ih =>
    intro s answers samples hb hu h hn hr ha
    have hround := steps_bodyTimedOut hb hu h hn hr ha
    obtain ⟨t, hsteps, htb, hcs, hrx, hab, hguard, hseq, hbytes, hmode, hneg, hhist⟩ :=
      ih (s.bodyTimedOut _ _) answers samples hb hu rfl rfl rfl rfl
    refine ⟨t, ?_, htb, hcs, hrx, hab, hguard, hseq, hbytes, hmode, hneg, ?_⟩
    · rw [Nat.mul_succ, Nat.add_comm]
      exact steps_trans hround hsteps
    · rw [hhist, List.replicate_succ', List.flatten_concat, List.append_assoc]
      rfl

end Sys2Proof.Machine

/-! SUPPORT. That every wait of the receiver ends: a number for each point of a header wait and of a body that every
move lowers until the wait is over. -/

namespace Sys2Proof.Machine

section waits
variable {s t : State}

/-! ### Progress of a block left alone -/

/-- Where each step lowers a number or reaches the goal, the goal is reached within that many steps. -/
theorem exists_steps_of_rank {P Q : State → Prop} (rank : State → Nat)
    (h : ∀ s, P s → 0 < rank s → ∃ t, step s = .next t ∧ (Q t ∨ (P t ∧ 0 < rank t ∧ rank t < rank s)))
    (hs : P s) (hr : 0 < rank s) : ∃ n t, n ≤ rank s ∧ steps n s = .next t ∧ Q t := by
  induction hk : rank s using Nat.strong_induction_on generalizing s with
  | _ k ih =>
    subst hk
    obtain ⟨t, hstep, hq | ⟨ht, hpos, hlt⟩⟩ := h s hs hr
    · exact ⟨1, t, hr, steps_cons hstep rfl, hq⟩
    · obtain ⟨n, u, hn, hsteps, hq⟩ := ih (rank t) hlt ht hpos rfl
      exact ⟨n + 1, u, by omega, steps_cons hstep hsteps, hq⟩

/-- A session under the invariant that nothing disturbs. -/
def State.leftAlone (s : State) : Prop := s.Inv ∧ s.busy = true ∧ s.undisturbed

/-- Its step is a move, after which it is left alone or over. -/
theorem State.leftAlone.step_moves (h : s.leftAlone) (hf : s.cs ≠ .txFetch) :
    ∃ t, step s = .next t ∧ Moves s t
      ∧ ((t.leftAlone ∧ t.cs ≠ .idle) ∨ ∃ o, s.cs = .finish o ∧ t = terminate o s) := by
  obtain ⟨hI, hb, hu⟩ := h
  obtain ⟨t, ht⟩ := hI.runPoint_next fun hcs => absurd hcs hf
  have hm := hI.moves hb ht
  refine ⟨t, (step_undisturbed hu).trans ht, hm, hm.cs_ne_idle.imp_left fun hcs => ⟨?_, hcs⟩⟩
  have hI' := hm.keepsInv hI hb hu.2
  obtain ⟨hsched, hhung⟩ := hm.surroundings
  exact ⟨hI', hI'.busy_iff.mpr hcs, hsched.trans hu.1, hhung.trans hu.2⟩

/-- GUARD, SEQ and BYTES are those of u. -/
def State.countsAs (s u : State) : Prop := s.guard = u.guard ∧ s.seq = u.seq ∧ s.bytes = u.bytes

/-- GUARD, SEQ and BYTES are written only where a packet is classified, stored or acknowledged. -/
theorem Moves.countsAs (h : Moves s t) (hc : s.cs ≠ .rxClassify) (hst : s.cs ≠ .rxStore) (ha : s.cs ≠ .txAcked) :
    t.countsAs s := by
  obtain ⟨hguard, -⟩ | ⟨hcs, -⟩ | ⟨hcs, -⟩ := h.guard_cases
  · obtain ⟨hseq, hbytes⟩ | ⟨hcs, -⟩ | ⟨hcs, -⟩ := h.seq_bytes_cases
    · exact ⟨hguard, hseq, hbytes⟩
    · exact absurd hcs hst
    · exact absurd hcs ha
  · exact absurd hcs hc
  · exact absurd hcs hst

/-- A wait whose moves lower a number until CS is where the wait leads to, or the session is over. -/
theorem exists_steps_of_wait {rank : State → Nat} {goal : Cs → Prop}
    (hout : ∀ s, s.cs = .txFetch ∨ s.cs = .rxClassify ∨ s.cs = .rxStore ∨ s.cs = .txAcked → rank s = 0)
    (hmove : ∀ s t, s.Inv → Moves s t → t.cs ≠ .idle → 0 < rank s →
      goal t.cs ∨ (0 < rank t ∧ rank t < rank s))
    (hs : s.leftAlone) (hr : 0 < rank s) :
    ∃ n t, n ≤ rank s ∧ steps n s = .next t
      ∧ ((t.busy = true ∧ goal t.cs ∧ t.countsAs s)
        ∨ ∃ u o, u.Inv ∧ 0 < rank u ∧ u.cs = .finish o ∧ t = terminate o u) := by
  refine exists_steps_of_rank (P := fun v => v.leftAlone ∧ v.countsAs s) rank ?_ ⟨hs, rfl, rfl, rfl⟩ hr
  rintro v ⟨hv, hguard, hseq, hbytes⟩ hpos
  obtain ⟨hfetch, hclassify, hstore, hacked⟩ :
      v.cs ≠ .txFetch ∧ v.cs ≠ .rxClassify ∧ v.cs ≠ .rxStore ∧ v.cs ≠ .txAcked := by
    simpa [not_or] using mt (hout v) hpos.ne'
  obtain ⟨t, hstep, hm, ⟨ht, hcs⟩ | ⟨o, hcs, rfl⟩⟩ := hv.step_moves hfetch
  · obtain ⟨hguard', hseq', hbytes'⟩ := hm.countsAs hclassify hstore hacked
    have hcounts : t.countsAs s := ⟨hguard'.trans hguard, hseq'.trans hseq, hbytes'.trans hbytes⟩
    obtain hgoal | hlt := hmove v t hv.1 hm hcs hpos
    · exact ⟨t, hstep, .inl (.inl ⟨ht.2.1, hgoal, hcounts⟩)⟩
    · exact ⟨t, hstep, .inr ⟨⟨ht, hcounts⟩, hlt⟩⟩
  · exact ⟨_, hstep, .inl (.inr ⟨v, o, hv.1, hpos, hcs, rfl⟩)⟩

/-! ### The header wait -/

/-- R154, R155: how many downgrades of MODE are left to a header wait. -/
def State.downgradesLeft (s : State) : Nat :=
  if s.neg then
    match s.mode with
    | .gmode => 2
    | .crc => 1
    | .arith => 0
    | .none => 0
  else 0

/-- Twelve steps for each attempt left in this mode and 200 for each mode after it. -/
def State.attemptRank (s : State) : Nat := 200 * s.downgradesLeft + 12 * (16 - s.att)

/-- What a point of the header wait adds to the bound a of the attempts left there, with d downgrades left; 0 at every
other point. An attempt goes through the points from `rxTest` to the second read of a CAN. -/
def Cs.headerRank (d a : Nat) : Cs → Nat
  | .rxWait => 200 * d + 199
  | .check (.before .rxHdr) => a + 14
  | .recv .rxHdr => a + 13
  | .check (.after .rxHdr _) => a + 12
  | .answer .rxHdr _ => a + 11
  | .check (.before .rxCan) => a + 10
  | .recv .rxCan => a + 9
  | .check (.after .rxCan _) => a + 8
  | .answer .rxCan _ => a + 7
  | .check (.head .rxHead) => a + 6
  | .rxTest => a + 5
  | .rxNeg => a + 4
  | .rxCount => a + 3
  | .can3 k _ => 4 - k
  | .flush .rxCancel => 3
  | .ack .cancel => 2
  | .ack .eot => 2
  | .finish _ => 1
  | _ => 0

/-- A bound of the steps that are left to a header wait; 0 where CS is not in one. -/
def State.headerRank (s : State) : Nat := s.cs.headerRank s.downgradesLeft s.attemptRank

theorem State.downgradesLeft_le (s : State) : s.downgradesLeft ≤ 2 := by
  unfold State.downgradesLeft
  repeat' split
  all_goals decide

/-- R154, R155: a downgrade leaves one less. -/
theorem State.downgradesLeft_of_downgrade {m : Mode} (hn : s.neg = true)
    (hm : (s.mode = .gmode ∧ m = .crc) ∨ (s.mode = .crc ∧ m = .arith)) :
    s.downgradesLeft = State.downgradesLeft { s with mode := m } + 1 := by
  obtain ⟨h, rfl⟩ | ⟨h, rfl⟩ := hm <;> simp [State.downgradesLeft, hn, h]

theorem State.headerRank_at {c : Cs} (h : s.cs = c) :
    s.headerRank = c.headerRank s.downgradesLeft s.attemptRank := by
  rw [State.headerRank, h]

/-- R281: a check point of the header wait is above what follows its sample. -/
theorem CheckPoint.headerRank_onward (c : CheckPoint) {d a : Nat} (h : 0 < (Cs.check c).headerRank d a) (v : Bool) :
    0 < (if v then .finish .userAborted else c.onward : Cs).headerRank d a
      ∧ (if v then .finish .userAborted else c.onward : Cs).headerRank d a < (Cs.check c).headerRank d a := by
  rcases c with l | p | ⟨p, r⟩
  · cases l with
    | rxHead => cases v <;> simp [CheckPoint.onward, Cs.headerRank]
    | _ => exact absurd h (lt_irrefl 0)
  all_goals
    cases p with
    | rxHdr | rxCan => cases v <;> simp [CheckPoint.onward, Cs.headerRank]
    | _ => exact absurd h (lt_irrefl 0)

theorem ReadPoint.headerRank_after (p : ReadPoint) {d a : Nat} (h : 0 < (Cs.recv p).headerRank d a) (r : Answer) :
    0 < (Cs.check (.after p r)).headerRank d a
      ∧ (Cs.check (.after p r)).headerRank d a < (Cs.recv p).headerRank d a := by
  cases p with
  | rxHdr | rxCan => simp [Cs.headerRank]
  | _ => exact absurd h (lt_irrefl 0)

/-- Where a move leaves NEG, MODE and ATT, CS alone decides. -/
theorem headerRank_lt_of_cs {c : Cs} (h : s.cs = c) (c' : Cs)
    (h' : t.headerRank = c'.headerRank s.downgradesLeft s.attemptRank)
    (hc : ∀ d a, 0 < c'.headerRank d a ∧ c'.headerRank d a < c.headerRank d a) :
    0 < t.headerRank ∧ t.headerRank < s.headerRank := by
  rw [State.headerRank_at h, h']
  exact hc _ _

/-- R153: the first attempt of a header wait is ahead. -/
theorem enterWait_headerRank_lt (h : s.cs = .rxWait) :
    0 < (enterWait s).headerRank ∧ (enterWait s).headerRank < s.headerRank := by
  have hwait : (enterWait s).headerRank = 200 * s.downgradesLeft + 12 * 16 + 6 := rfl
  rw [State.headerRank_at h, hwait, Cs.headerRank]
  omega

/-- R153 to R155: the test goes on with the attempt, with the next mode, or to SYNC_ERROR. -/
theorem headerTest_headerRank_lt (h : s.cs = .rxTest) :
    0 < (headerTest s).headerRank ∧ (headerTest s).headerRank < s.headerRank := by
  obtain ⟨-, e⟩ | ⟨m, hn, hm, e⟩ | e := headerTest_cases s <;> rw [e]
  · refine headerRank_lt_of_cs h (if s.neg then .rxNeg else .rxCount) rfl fun d a => ?_
    split <;> simp [Cs.headerRank]
  · have hmode := State.downgradesLeft_of_downgrade hn hm
    have hdowngraded : State.headerRank { s with mode := m, att := 0, cs := .check (.head .rxHead) }
        = 200 * State.downgradesLeft { s with mode := m } + 12 * 16 + 6 := rfl
    rw [State.headerRank_at h, hdowngraded, Cs.headerRank, State.attemptRank]
    omega
  · exact headerRank_lt_of_cs h (.can3 0 .syncError) rfl fun d a => by simp only [Cs.headerRank]; omega

/-- R153: an attempt is counted before its read, so that one less is left. -/
theorem countAttempt_headerRank_lt (h : s.cs = .rxCount) (ha : s.att < 16) :
    0 < (countAttempt s).headerRank ∧ (countAttempt s).headerRank < s.headerRank := by
  have hcount : (countAttempt s).headerRank = 200 * s.downgradesLeft + 12 * (16 - (s.att + 1)) + 14 := rfl
  rw [State.headerRank_at h, hcount, Cs.headerRank, State.attemptRank]
  omega

/-- A move of a header wait reads a packet header or comes nearer to one or to the session's end. -/
theorem Moves.headerRank_lt (h : Moves s t) (hI : s.Inv) (ht : t.cs ≠ .idle) (hr : 0 < s.headerRank) :
    t.cs = .rxBody ∨ (0 < t.headerRank ∧ t.headerRank < s.headerRank) := by
  cases h with
  | header => exact .inl rfl
  | finished => exact absurd rfl ht
  | checked c v ab d h =>
    rw [State.headerRank_at h] at hr ⊢
    exact .inr (c.headerRank_onward hr v)
  | received p r _ _ h =>
    rw [State.headerRank_at h] at hr ⊢
    exact .inr (p.headerRank_after hr r)
  | waited h => exact .inr (enterWait_headerRank_lt h)
  | tested h => exact .inr (headerTest_headerRank_lt h)
  | counted h => exact .inr (countAttempt_headerRank_lt h (hI.pointInv_at h : s.receiving ∧ s.att < 16).2)
  | headerEot _ h => exact .inr (headerRank_lt_of_cs h (.ack .eot) rfl fun d a => by simp only [Cs.headerRank]; omega)
  | headerCan _ h =>
    exact .inr (headerRank_lt_of_cs h (.check (.before .rxCan)) rfl fun d a => by simp [Cs.headerRank])
  | headerOther _ h =>
    exact .inr (headerRank_lt_of_cs h (.check (.head .rxHead)) rfl fun d a => by simp [Cs.headerRank])
  | negotiated _ _ h => exact .inr (headerRank_lt_of_cs h .rxCount rfl fun d a => by simp [Cs.headerRank])
  | secondCanRx r h =>
    refine .inr (headerRank_lt_of_cs h
      (if r = .byte Config.can then .flush .rxCancel else .check (.head .rxHead)) rfl fun d a => ?_)
    split <;> simp only [Cs.headerRank] <;> omega
  | cancelled k o h =>
    have hk : k < 3 := (hI.pointInv_at h : k < 3 ∧ _).1
    refine .inr (headerRank_lt_of_cs h (if k + 1 < 3 then .can3 (k + 1) o else .finish o) rfl fun d a => ?_)
    split <;> simp only [Cs.headerRank] <;> omega
  | flushed site h =>
    cases site with
    | rxCancel => exact .inr (headerRank_lt_of_cs h (.ack .cancel) rfl fun d a => by simp [Cs.headerRank])
    | retryExceeded | txCancel => simp [State.headerRank_at h, Cs.headerRank] at hr
  | acked site h =>
    cases site with
    | eot => exact .inr (headerRank_lt_of_cs h (.finish .done) rfl fun d a => by simp [Cs.headerRank])
    | cancel => exact .inr (headerRank_lt_of_cs h (.finish .remoteCancelled) rfl fun d a => by simp [Cs.headerRank])
    | duplicate | accepted => simp [State.headerRank_at h, Cs.headerRank] at hr
  | _ => simp [State.headerRank, Cs.headerRank, *] at hr

/-! ### The body -/

/-- A bound of the steps left at a point of a body of n bytes, four for each byte; 0 at every other point. -/
def Cs.bodyRank (n : Nat) : Cs → Nat
  | .rxBody => 4 * 1028 + 2
  | .check (.before (.rxBody k)) => 4 * (n - k) + 1
  | .recv (.rxBody k) => 4 * (n - k)
  | .check (.after (.rxBody k) _) => 4 * (n - k) - 1
  | .answer (.rxBody k) _ => 4 * (n - k) - 2
  | .finish .userAborted => 1
  | _ => 0

/-- A bound of the steps that are left to a body; 0 where CS is not in one. -/
def State.bodyRank (s : State) : Nat := s.cs.bodyRank (bodyLength s.bsize s.tsize)

theorem State.bodyRank_at {c : Cs} (h : s.cs = c) : s.bodyRank = c.bodyRank (bodyLength s.bsize s.tsize) := by
  rw [State.bodyRank, h]

/-- Where a move leaves the sizes, CS alone decides. -/
theorem bodyRank_lt_of_cs {c : Cs} (h : s.cs = c) (c' : Cs)
    (h' : t.bodyRank = c'.bodyRank (bodyLength s.bsize s.tsize))
    (hc : 0 < c'.bodyRank (bodyLength s.bsize s.tsize)
      ∧ c'.bodyRank (bodyLength s.bsize s.tsize) < c.bodyRank (bodyLength s.bsize s.tsize)) :
    0 < t.bodyRank ∧ t.bodyRank < s.bodyRank := by
  rwa [State.bodyRank_at h, h']

/-- R281: the check points of a body read lead on, or to the end that an abort sample raises. -/
theorem checked_bodyRank_lt {c : CheckPoint} (h : s.cs = .check c) (hI : s.Inv) (hr : 0 < s.bodyRank) (v : Bool)
    (ht : t.bodyRank
      = (if v then .finish .userAborted else c.onward : Cs).bodyRank (bodyLength s.bsize s.tsize)) :
    0 < t.bodyRank ∧ t.bodyRank < s.bodyRank := by
  refine bodyRank_lt_of_cs h _ ht ?_
  rw [State.bodyRank_at h] at hr
  rcases c with l | p | ⟨p, r⟩
  · exact absurd hr (lt_irrefl 0)
  all_goals
    cases p with
    | rxBody k =>
      obtain ⟨-, hk, -⟩ : s.inBody ∧ k < bodyLength s.bsize s.tsize ∧ _ := hI.pointInv_at h
      cases v <;> simp only [CheckPoint.onward, Cs.bodyRank, if_true, Bool.false_eq_true, if_false] <;> omega
    | _ => exact absurd hr (lt_irrefl 0)

/-- R165: a body byte is followed by the next read or, after the last one, by the classification. -/
theorem afterBodyByte_bodyRank_lt (s : State) (k : Nat) (r : Answer) :
    afterBodyByte k s = .rxClassify
      ∨ (0 < (afterBodyByte k s).bodyRank (bodyLength s.bsize s.tsize)
        ∧ (afterBodyByte k s).bodyRank (bodyLength s.bsize s.tsize)
          < (Cs.answer (.rxBody k) r).bodyRank (bodyLength s.bsize s.tsize)) := by
  unfold afterBodyByte
  split
  · simp only [Cs.bodyRank]
    omega
  · exact .inl rfl

/-- R164: the body that is entered fits FRAME, whatever its sizes are. -/
theorem bodyEntered_bodyRank_lt (h : s.cs = .rxBody) (b : BlockSize) (ts : TrailerSize)
    (ht : t.bodyRank = (Cs.check (.before (.rxBody 0))).bodyRank (bodyLength b ts)) :
    0 < t.bodyRank ∧ t.bodyRank < s.bodyRank := by
  have hfit := bodyLength_lt_frameBytes b ts
  rw [State.bodyRank_at h, ht]
  simp only [Cs.bodyRank]
  omega

/-- A move of a body reads the whole of it, meets a timeout, or comes nearer to one of them or to an abort. -/
theorem Moves.bodyRank_lt (h : Moves s t) (hI : s.Inv) (ht : t.cs ≠ .idle) (hr : 0 < s.bodyRank) :
    (t.cs = .rxClassify ∨ t.cs = .nak) ∨ (0 < t.bodyRank ∧ t.bodyRank < s.bodyRank) := by
  cases h with
  | finished => exact absurd rfl ht
  | checked c v ab d h => exact .inr (checked_bodyRank_lt h hI hr v rfl)
  | received p r _ _ h =>
    cases p with
    | rxBody k =>
      obtain ⟨-, hk, -⟩ : s.inBody ∧ k < bodyLength s.bsize s.tsize ∧ _ := hI.pointInv_at h
      exact .inr (bodyRank_lt_of_cs h (.check (.after (.rxBody k) r)) rfl (by simp only [Cs.bodyRank]; omega))
    | _ => simp [State.bodyRank_at h, Cs.bodyRank] at hr
  | bodyTimeout k h => exact .inl (.inr rfl)
  | bodyByte k b h =>
    obtain hlast | hlt := afterBodyByte_bodyRank_lt s k (.byte b)
    · exact .inl (.inl hlast)
    · exact .inr (bodyRank_lt_of_cs h _ rfl hlt)
  | bodyEntered h => exact .inr (bodyEntered_bodyRank_lt h s.bsize s.mode.trailerSize rfl)
  | _ => simp [State.bodyRank, Cs.bodyRank, *] at hr

/-- R176: only an abort sample ends the session in a body. -/
theorem userAborted_of_bodyRank_pos {o : OutcomeCode} (h : s.cs = .finish o) (hr : 0 < s.bodyRank) :
    o = .userAborted := by
  rw [State.bodyRank_at h] at hr
  cases o with
  | userAborted => rfl
  | _ => exact absurd hr (lt_irrefl 0)

/-- R300: no session ends with the outcome NONE. -/
theorem OutcomeCode.ne_none_of_endsSession {o : OutcomeCode} {r : Role} (h : o.endsSession r = true) : o ≠ .none := by
  rintro rfl
  cases r <;> exact absurd h (by decide)

end waits

/-- Settles O57: a header wait and a body each end within the bound that their rank has at the first line; what ends
them is the point they lead to or `Terminate`, in a body that of an abort sample alone. -/
theorem receiverWaitsEnd : Obligations.ReceiverWaitsEnd := by
  intro s hI hb hu
  refine ⟨fun h => ?_, fun h => ?_⟩
  · have hrank : s.headerRank = 200 * s.downgradesLeft + 199 := State.headerRank_at h
    have hmodes := s.downgradesLeft_le
    obtain ⟨n, t, hn, hsteps, hend⟩ := exists_steps_of_wait (rank := State.headerRank) (goal := (· = .rxBody))
      (fun s h => by obtain h | h | h | h := h <;> rw [State.headerRank_at h] <;> rfl)
      (fun s t hI hm ht hr => hm.headerRank_lt hI ht hr) ⟨hI, hb, hu⟩ (by omega)
    refine ⟨n, t, by omega, hsteps, hend.imp_right ?_⟩
    rintro ⟨u, o, hIu, -, hcs, rfl⟩
    exact ⟨rfl, OutcomeCode.ne_none_of_endsSession (r := u.role) (hIu.pointInv_at hcs)⟩
  · have hrank : s.bodyRank = 4 * 1028 + 2 := State.bodyRank_at h
    obtain ⟨n, t, hn, hsteps, hend⟩ := exists_steps_of_wait (rank := State.bodyRank)
      (goal := fun c => c = .rxClassify ∨ c = .nak)
      (fun s h => by obtain h | h | h | h := h <;> rw [State.bodyRank_at h] <;> rfl)
      (fun s t hI hm ht hr => hm.bodyRank_lt hI ht hr) ⟨hI, hb, hu⟩ (by omega)
    refine ⟨n, t, by omega, hsteps, hend.imp_right ?_⟩
    rintro ⟨u, o, -, hr, hcs, rfl⟩
    exact ⟨rfl, userAborted_of_bodyRank_pos hcs hr⟩

end Sys2Proof.Machine

/-! SUPPORT. The transmitter from its negotiation to the end of a packet: its points of internal computation, the fetch
with each kind of listed answer, and the frame as its bytes are sent. -/

namespace Sys2Proof.Machine

section transmitter
variable {s : State}

/-! ### Points of internal computation -/

/-- A point of internal computation performs its primitive, whatever the schedule says. -/
theorem step_internal_at {c : Cs} {r : Res} (hb : s.busy = true) (h : s.cs = c) (hi : c.internal = true)
    (hr : runPoint s = r) : step s = r :=
  (step_internal hb (h ▸ hi)).trans hr

/-- R205, R211: any second answer but a CAN is dropped. -/
theorem secondCanTx_other {r : Answer} (l : LoopHead) (h : r ≠ .byte 0x18#8) :
    secondCanTx l r s = s.goto (.check (.head l)) :=
  congrArg s.goto (if_neg h)

/-- R205, R211: the second CAN, at either read, leads to the flush. -/
theorem step_secondCan (hb : s.busy = true)
    (h : s.cs = .answer .txNegCan (.byte 0x18#8) ∨ s.cs = .answer .txRspCan (.byte 0x18#8)) :
    step s = .next { s with cs := .flush .txCancel } := by
  obtain h | h := h
  · exact step_internal_at hb h rfl (runPoint_txNegCan hb h)
  · exact step_internal_at hb h rfl (runPoint_txRspCan hb h)

/-- R28, R207: nothing is due exactly when BYTES is LIMIT. -/
theorem nothing_due_iff (h : s.bytes.toNat ≤ s.limit.toNat) :
    s.limit.toNat - s.bytes.toNat = 0 ↔ s.bytes = s.limit := by
  rw [Nat.sub_eq_zero_iff_le, ← BitVec.toNat_inj, h.ge_iff_eq]

theorem blockSizeFor_eq (use1k : Bool) (rem : Nat) :
    blockSizeFor use1k rem = if use1k = true ∧ 128 < rem then .large else .small := by
  simp only [blockSizeFor, Bool.and_eq_true, decide_eq_true_eq]

/-! ### The fetch -/

theorem drawFetch_listed {l : List Byte} {rest : List (List Byte)} (h : s.src = l :: rest) (cap : Nat) :
    drawFetch cap s = (l, { s with src := rest }) := by
  rw [drawFetch, h]

/-- R284, I9: an answer beyond the capacity is refused. -/
theorem fetchBlock_overrun {l : List Byte} {rest : List (List Byte)} (h : s.src = l :: rest)
    (hl : s.fetchCapacity < l.length) : fetchBlock s = .refused .sourceOverrun := by
  simp only [fetchBlock, drawFetch_listed h, if_pos hl]

/-- R213: an empty answer outside control mode leads to the EOT phase. -/
theorem fetchBlock_empty {rest : List (List Byte)} (h : s.src = [] :: rest) (hc : s.ctrl = false) :
    fetchBlock s = .next
      { s with
        src := rest, nfetch := 0, eod := s.eod || decide (0 < s.fetchCapacity), cs := .txEot
        hist := .fetch s.fetchCapacity [] :: s.hist } := by
  simp only [fetchBlock, drawFetch_listed h, List.length_nil, Nat.not_lt_zero, if_false, hc, and_self, if_true]
  rfl

/-- R208: a payload that fits the block is framed and written. -/
theorem assembleFrame_eq_next {l : List Byte} (h : l.length ≤ s.bsize.bytes) :
    assembleFrame l s = .next
      { s with
        tsize := s.mode.trailerSize, tries := 0, cs := .check (.head .txSHead)
        frame := s.frame.writeList 0 (builtFrame (paddedPayload l s) s) } := by
  have hfit := frameLength_le s.bsize s.mode.trailerSize
  rw [← builtFrame_length _ s (paddedPayload_length l s h), ← Nat.zero_add (List.length _)] at hfit
  rw [assembleFrame, memWrite_eq_ok 0 _ _ hfit, ofExcept_ok]

/-- R207, R208: any other answer within the capacity builds a packet. -/
theorem fetchBlock_built {l : List Byte} {rest : List (List Byte)} (h : s.src = l :: rest)
    (hl : l.length ≤ s.fetchCapacity) (hne : ¬ (s.ctrl = false ∧ l = [])) :
    fetchBlock s = .next
      { s with
        src := rest, nfetch := l.length, eod := s.eod || decide (l.length < s.fetchCapacity)
        tsize := s.mode.trailerSize, tries := 0, cs := .check (.head .txSHead)
        hist := .fetch s.fetchCapacity l :: s.hist
        frame := s.frame.writeList 0 (builtFrame (paddedPayload l s) s) } := by
  simp only [fetchBlock, drawFetch_listed h, if_neg (Nat.not_lt.mpr hl), if_neg hne]
  exact assembleFrame_eq_next (hl.trans s.fetchCapacity_le)

/-- A fetch that the source's port lets go on. -/
theorem step_txFetch (hb : s.busy = true) (ht : s.turn = .seq) (h : s.cs = .txFetch) :
    step s = fetchBlock (popTurn s) := by
  rw [step_seq s (by simp [State.computing, h, Cs.internal]) ht, runPoint_txFetch (s := popTurn s) hb h]

/-! ### The sizes of a built frame (R33, R82, R83) -/

theorem BlockSize.header_eq (b : BlockSize) : b.header = if b = .small then 0x01#8 else 0x02#8 := by
  cases b <;> rfl

theorem Mode.trailerSize_bytes (m : Mode) : m.trailerSize.bytes = if m = .arith then 1 else 2 :=
  apply_ite TrailerSize.bytes ..

/-! ### The sending of a frame (R210) -/

theorem sendFrameByte_eq (i : Nat) (b : Byte) (s : State) :
    sendFrameByte i b s =
      if i + 1 < frameLength s.bsize s.tsize then { s with hist := .tx b :: s.hist, cs := .txSend (i + 1) }
      else { s with
        hist := .tx b :: s.hist, tries := s.tries + 1
        cs := if s.mode = .gmode then .txAcked else .check (.before .txRsp) } := rfl

/-- A frame of the session's sizes where its byte i is sent; k is the last byte's index. -/
theorem runFrame_txSend {f : List Byte} {i k : Nat} {b : Byte} (h : s.cs = .txSend i) (hb : f[i]? = some b)
    (hk : frameLength s.bsize s.tsize = k + 1) :
    runFrame s.bsize s.tsize f s = .next
      (if i < k then { s with hist := .tx b :: s.hist, cs := .txSend (i + 1) }
      else { s with
        hist := .tx b :: s.hist, tries := s.tries + 1
        cs := if s.mode = .gmode then .txAcked else .check (.before .txRsp) }) := by
  have hrun : runFrame s.bsize s.tsize f s = .next (sendFrameByte i b s) := by simp [runFrame, h, hb]
  simp only [hrun, sendFrameByte_eq, hk, Nat.add_lt_add_iff_right]

/-- R74, R210: the bytes l of the frame that are left to send go out, one a step, and FRAME keeps them. -/
theorem steps_txSend {f l : List Byte} (hl : l ≠ []) {i : Nat} (hb : s.busy = true) (hu : s.undisturbed)
    (h : s.cs = .txSend i) (hf : s.frame.readList 0 (frameLength s.bsize s.tsize) = some f)
    (hh : f[0]? = some s.bsize.header) (hd : f.drop i = l) :
    steps l.length s = .next
      { s with
        hist := (l.map Event.tx).reverse ++ s.hist, tries := s.tries + 1
        cs := if s.mode = .gmode then .txAcked else .check (.before .txRsp) } := by
  induction l generalizing s i with
  | nil => exact absurd rfl hl
  | cons b l ih =>
    have hbyte : f[i]? = some b := by rw [← List.head?_drop, hd, List.head?_cons]
    have hrest : f.drop (i + 1) = l := by rw [← List.tail_drop, hd, List.tail_cons]
    have hlen : frameLength s.bsize s.tsize = i + 1 + l.length := by
      have hdrop := congrArg List.length hd
      rw [List.length_drop, List.length_cons, ((Memory.readList_eq_some_iff _ _ _ _).mp hf).1] at hdrop
      omega
    have hstep : step s = .next (sendFrameByte i b s) :=
      (step_undisturbed hu).trans (runPoint_txSend hb h hf hh hbyte)
    cases l with
    | nil =>
      have hlast : ¬ i + 1 < frameLength s.bsize s.tsize := Nat.not_lt.mpr hlen.le
      rw [sendFrameByte_eq, if_neg hlast] at hstep
      exact steps_cons hstep rfl
    | cons b' l =>
      have hmore : i + 1 < frameLength s.bsize s.tsize := hlen ▸ Nat.lt_add_of_pos_right (Nat.succ_pos _)
      rw [sendFrameByte_eq, if_pos hmore] at hstep
      rw [List.map_cons, List.reverse_cons, List.append_assoc]
      exact steps_cons hstep
        (ih (s := { s with hist := .tx b :: s.hist, cs := .txSend (i + 1) }) nofun hb hu rfl hf hh hrest)

end transmitter

/-! ### The obligations of the transmitter -/

/-- Settles O36, by the three answers that the fetch tells apart; the frame it writes is read back whole, and the write
reaches no further. -/
theorem fetchBuildsThePacket : Obligations.FetchBuildsThePacket := by
  intro s l rest hb ht h hle hsrc
  have hcap : min s.bsize.bytes (s.limit.toNat - s.bytes.toNat) = (popTurn s).fetchCapacity := by
    rw [State.fetchCapacity_popTurn, State.fetchCapacity, State.remaining_eq hle]
  rw [hcap, step_txFetch hb ht h]
  refine ⟨fun hl hne => ?_, fun hc hl => ?_, fetchBlock_overrun hsrc⟩
  · have hlen : 3 + s.bsize.bytes + (if s.mode = .arith then 1 else 2)
        = (builtFrame (paddedPayload l s) s).length := by
      rw [builtFrame_length _ s (paddedPayload_length l s (hl.trans (State.fetchCapacity_le _))), frameLength,
        Mode.trailerSize_bytes]
    rw [hlen, ← BlockSize.header_eq]
    exact ⟨_, fetchBlock_built hsrc hl hne, rfl, Memory.readList_writeList _ 0 _,
      fun a ha => Memory.read_writeList_outside _ 0 a _ (.inr ((Nat.zero_add _).trans_le ha))⟩
  · subst hl
    exact fetchBlock_empty hsrc hc

/-- Settles O37: each row is a frame of the session's sizes, and its trailer says which byte is the last. -/
theorem frameRowsSend : Obligations.FrameRowsSend := by
  intro s seq cpl sum crc p n h hp
  refine ⟨fun b ht hbyte i hi => ?_, fun b ht hbyte i hi => ?_⟩
  · have hrun : exec i s = runFrame s.bsize s.tsize (frameOf s.bsize.header seq cpl p [sum]) s := by
      obtain ⟨hb, rfl⟩ | ⟨hb, rfl⟩ := hi <;> rw [hb, ht] <;> rfl
    rw [hrun]
    exact runFrame_txSend h hbyte (by rw [frameLength, ht, hp, Nat.add_comm 3]; rfl)
  · have hrun : exec i s = runFrame s.bsize s.tsize (frameOf s.bsize.header seq cpl p (crcBytes crc)) s := by
      obtain ⟨hb, rfl⟩ | ⟨hb, rfl⟩ := hi <;> rw [hb, ht] <;> rfl
    rw [hrun]
    exact runFrame_txSend h hbyte (by rw [frameLength, ht, hp, Nat.add_comm 3]; rfl)

/-- Settles O38, by `steps_txSend` from byte 0, where the whole frame is left to send. -/
theorem wholeFrameIsSentBackToBack : Obligations.WholeFrameIsSentBackToBack := by
  intro s f hb hu h hlen hf hh
  have hne : f ≠ [] := by
    rintro rfl
    cases hh
  exact steps_txSend hne hb hu h (by rwa [frameLength, ← hlen]) hh List.drop_zero

/-- Settles O33: the second CAN leads to the flush and to `Terminate`, any other answer back to the loop's head. -/
theorem canCanCancelsTheTransmitter : Obligations.CanCanCancelsTheTransmitter := by
  intro s r hb hcs
  refine ⟨fun hr hu => ?_, fun hr h => ?_, fun hr h => ?_⟩
  · subst hr
    exact steps_cons (step_secondCan hb hcs) <| steps_cons (step_flush hb hu rfl) <|
      steps_cons (step_finish hb hu rfl) rfl
  · rw [step_internal_at hb h rfl (runPoint_txNegCan hb h), secondCanTx_other _ hr]
    rfl
  · rw [step_internal_at hb h rfl (runPoint_txRspCan hb h), secondCanTx_other _ hr]
    rfl

/-- Settles O34, by the four internal points and their own tests. -/
theorem transmitterExhaustion : Obligations.TransmitterExhaustion := fun _ hb =>
  ⟨fun h => step_internal_at hb h rfl (runPoint_txNegTest hb h),
    fun h => step_internal_at hb h rfl (runPoint_txCapTest hb h),
    fun h => step_internal_at hb h rfl (runPoint_txEotPhase hb h),
    fun h => step_internal_at hb h rfl (runPoint_txEotTest hb h)⟩

/-- Settles O35: with BYTES within LIMIT what is due does not wrap, and it is nothing exactly when they are equal. -/
theorem blockSizeChoice : Obligations.BlockSizeChoice := by
  intro s hb h hle
  rw [step_internal_at hb h rfl (runPoint_txBlock hb h)]
  simp only [chooseBlock, State.remaining_eq hle, nothing_due_iff hle, blockSizeFor_eq]
  rfl

/-- Settles O39, by the one primitive of TX_ACKED. -/
theorem acknowledgedPacketCounts : Obligations.AcknowledgedPacketCounts := fun _ hb h =>
  step_internal_at hb h rfl (runPoint_txAcked hb h)

end Sys2Proof.Machine

/-! SUPPORT. The host's side of the block: a listed access between two events, the commands of an idle and of a running
block, the check points and reads of a block whose move it is, and which step records a Store or a Fetch. -/

namespace Sys2Proof.Machine

section host
variable {s t : State}

/-! ### Listed accesses -/

/-- R65, R270: between two events an access at the head of the schedule is performed and taken off it. -/
theorem step_host_listed {a : HostAccess} {rest : List Turn} (hc : s.computing = false)
    (hs : s.sched = .host a :: rest) : step s = hostAccess a { s with sched := rest } := by
  rw [step_host s a hc (turn_of_sched_host hs), popTurn, hs, List.tail_cons]

/-- R271: a read answers the register's value and is recorded. -/
theorem hostAccess_read (r : HostReg) (s : State) :
    hostAccess (.read 32 r.offset) s = .next (s.record (.hostRd r (s.hostValue r))) := by
  cases r <;> rfl

/-! ### Commands -/

/-- R273: no word written to CMD does anything while a session runs. -/
theorem runCode_cmdWord_ignored (w : Word) (hb : s.busy = true) : runCode (.cmdWord w) s = .next s := by
  obtain ⟨u, hu⟩ := runCode_cmdWord_next w s
  rw [hu, runCode_cmdWord_running hb hu]

theorem runCode_of_decode {c : Code} {i : Instr} (hd : decode c = .ok i) (s : State) : runCode c s = exec i s := by
  simp only [runCode, hd]

/-- R272, R273: while a session runs, an access writes nothing but LENGTH, and that only by a LENGTH write. -/
theorem hostAccess_running_length {a : HostAccess} (hb : s.busy = true) (h : hostAccess a s = .next t) :
    ∃ e v, t = { s with length := v, hist := e :: s.hist } ∧ (v = s.length ∨ a = .write 32 0x4 v) := by
  obtain ⟨r, -, rfl⟩ | ⟨w, -, hw⟩ | ⟨v, ha, rfl⟩ | ⟨r, v, -, -, rfl⟩ := hostAccess_cases h
  · exact ⟨_, _, rfl, .inl rfl⟩
  · exact ⟨_, _, runCode_cmdWord_running (s := s.record _) hb hw, .inl rfl⟩
  · exact ⟨_, _, rfl, .inr ha⟩
  · exact ⟨_, _, rfl, .inl rfl⟩

/-! ### Check points and reads -/

/-- An event point at the sequencer's turn performs its primitive with the turn taken off the schedule. -/
theorem step_event_at {c : Cs} (ht : s.turn = .seq) (h : s.cs = c) (hi : c.internal = false) :
    step s = runPoint (popTurn s) :=
  step_seq s (by simp [State.computing, h, hi]) ht

/-- R280, R281: a listed sample at a check point. -/
theorem step_check_at_turn {c : CheckPoint} {v : Bool} {rest : List Bool} (hb : s.busy = true) (ht : s.turn = .seq)
    (h : s.cs = .check c) (ha : s.abort = v :: rest) :
    step s = .next
      { s with
        abort := rest, sched := s.sched.tail, hist := .abortSample v :: s.hist
        cs := if v then .finish .userAborted else c.onward } := by
  rw [step_event_at ht h rfl, runPoint_check (s := popTurn s) hb h, checkAbort_listed c (popTurn s) v rest ha]
  rfl

/-- R13: a listed answer at a read. -/
theorem step_recv_at_turn {p : ReadPoint} {r : Answer} {rest : List Answer} (hb : s.busy = true) (ht : s.turn = .seq)
    (h : s.cs = .recv p) (hr : s.rx = r :: rest) :
    step s = .next
      { s with
        rx := rest, sched := s.sched.tail, hist := .rx p.timer r :: s.hist, cs := .check (.after p r) } := by
  rw [step_event_at ht h rfl, runPoint_recv (s := popTurn s) hb h, receive_listed p (popTurn s) r rest hr]
  rfl

/-! ### Which step records a Store or a Fetch -/

/-- What a host access records is an access. -/
theorem hostAccess_event {a : HostAccess} (h : hostAccess a s = .next t) :
    ∃ r v, t.hist = .hostRd r v :: s.hist ∨ t.hist = .hostWr r v :: s.hist := by
  obtain ⟨r, -, rfl⟩ | ⟨v, -, hc⟩ | ⟨v, -, rfl⟩ | ⟨r, v, -, -, rfl⟩ := hostAccess_cases h
  · exact ⟨_, _, .inl rfl⟩
  · exact ⟨_, _, .inr (runCode_cmdWord_hist hc)⟩
  · exact ⟨_, _, .inr rfl⟩
  · exact ⟨_, _, .inr rfl⟩

/-- R13: an event is recorded by a move of a running session, or it is a host access. -/
theorem step_event_cases {e : Event} (hstep : step s = .next t) (ht : t.hist = e :: s.hist) :
    (s.busy = true ∧ Moves (popTurn s) t) ∨ ∃ r v, e = .hostRd r v ∨ e = .hostWr r v := by
  have hself : s.hist ≠ e :: s.hist := (List.cons_ne_self _ _).symm
  obtain ⟨hc, -⟩ | ⟨-, -, h⟩ | ⟨-, a, -, h⟩ | ⟨-, -, h⟩ | ⟨-, -, h⟩ | ⟨-, -, h⟩ := step_cases hstep
  · exact absurd ((step_hist_of_computing hstep hc).symm.trans ht) hself
  · obtain rfl | hm := runPoint_cases h
    · exact absurd ht hself
    · exact .inl hm
  · obtain ⟨r, v, hh⟩ := hostAccess_event h
    exact .inr ⟨r, v, hh.imp (fun hh => (List.cons.inj (ht.symm.trans hh)).1)
      (fun hh => (List.cons.inj (ht.symm.trans hh)).1)⟩
  all_goals
    cases h
    exact absurd ht hself

/-- R171, R207: the store and the fetch are the only moves that record a Store or a Fetch, each with its count. -/
theorem Moves.store_fetch_cases (h : Moves s t) :
    (∃ l, s.cs = .rxStore ∧ l.length = s.storeCount ∧ t.hist = .store l :: s.hist)
      ∨ (∃ l, s.cs = .txFetch ∧ l.length ≤ s.fetchCapacity ∧ t.hist = .fetch s.fetchCapacity l :: s.hist)
      ∨ ((∀ l, t.hist ≠ .store l :: s.hist) ∧ ∀ c l, t.hist ≠ .fetch c l :: s.hist) := by
  have hsame (e : t.hist = s.hist) :
      (∀ l, t.hist ≠ .store l :: s.hist) ∧ ∀ c l, t.hist ≠ .fetch c l :: s.hist := by
    simp [e]
  cases h with
  | stored l h hl => exact .inl ⟨l, h, ((Memory.readList_eq_some_iff _ _ _ _).mp hl).1, rfl⟩
  | fetchedNothing _ _ h => exact .inr (.inl ⟨[], h, Nat.zero_le _, rfl⟩)
  | built l _ _ h hl => exact .inr (.inl ⟨l, h, hl, rfl⟩)
  | checked | received | negotiated | acked | naked | cancelled | flushed | finished | eotSent =>
    exact .inr (.inr ⟨nofun, nofun⟩)
  | frameByteSent i b => exact .inr (.inr (by simp))
  | tested => exact .inr (.inr (hsame (headerTest_hist s)))
  | classified => exact .inr (.inr (hsame (answerPacket_hist _ s)))
  | negotiationTested => exact .inr (.inr (hsame (negotiationTest_hist s)))
  | blockChosen => exact .inr (.inr (hsame (chooseBlock_hist s)))
  | _ => exact .inr (.inr (hsame rfl))

/-- A recorded Store is that of the store's point. -/
theorem step_stores {l : List Byte} (hstep : step s = .next t) (ht : t.hist = .store l :: s.hist) :
    s.busy = true ∧ s.cs = .rxStore ∧ l.length = s.storeCount := by
  obtain ⟨hb, hm⟩ | ⟨r, v, e | e⟩ := step_event_cases hstep ht
  · obtain ⟨l', hcs, hl, hh⟩ | ⟨l', -, -, hh⟩ | ⟨hno, -⟩ := hm.store_fetch_cases
    · cases ht.symm.trans hh
      exact ⟨hb, hcs, hl⟩
    · cases ht.symm.trans hh
    · exact absurd ht (hno l)
  all_goals cases e

/-- A recorded Fetch is that of the fetch's point. -/
theorem step_fetches {c : Nat} {l : List Byte} (hstep : step s = .next t) (ht : t.hist = .fetch c l :: s.hist) :
    s.busy = true ∧ s.cs = .txFetch ∧ c = s.fetchCapacity ∧ l.length ≤ c := by
  obtain ⟨hb, hm⟩ | ⟨r, v, e | e⟩ := step_event_cases hstep ht
  · obtain ⟨l', -, -, hh⟩ | ⟨l', hcs, hl, hh⟩ | ⟨-, hno⟩ := hm.store_fetch_cases
    · cases ht.symm.trans hh
    · cases ht.symm.trans hh
      exact ⟨hb, hcs, rfl, hl⟩
    · exact absurd ht (hno c l)
  all_goals cases e

/-- R171, R207: what is stored or asked for fits a block and is still due. -/
theorem min_bsize_remaining_le (hI : s.Inv) :
    min s.bsize.bytes s.remaining ≤ 1024 ∧ min s.bsize.bytes s.remaining ≤ s.limit.toNat - s.bytes.toNat :=
  ⟨(Nat.min_le_left _ _).trans s.bsize.bytes_le, (Nat.min_le_right _ _).trans (State.remaining_eq hI.bytes_le).le⟩

end host

/-! ### The obligations of the host's interface -/

/-- Settles O12: the four registers' addresses, each answered with the value of R271. -/
theorem hostReadsHaveNoSideEffect : Obligations.HostReadsHaveNoSideEffect := by
  intro s off rest hc hs
  rw [step_host_listed hc hs]
  refine ⟨?_, ?_, ?_, ?_⟩ <;> rintro rfl
  · exact hostAccess_read .cmd _
  · exact hostAccess_read .length _
  · exact hostAccess_read .status _
  · exact hostAccess_read .count _

/-- Settles O13: the four registers' addresses, each with its own effect in `hostAccess`. -/
theorem hostWrites : Obligations.HostWrites := by
  intro s off v rest hc hs
  rw [step_host_listed hc hs]
  refine ⟨?_, ?_, ?_, ?_⟩ <;> rintro rfl <;> rfl

/-- Settles O15: the block is idle, so each command's start is its effect. -/
theorem startCommandsStartASession : Obligations.StartCommandsStartASession := by
  intro s ckpref use1k ctrl hb
  have hstart (u : State) : (.next (whenIdle s u) : Res) = .next u := congrArg _ (whenIdle_of_idle hb u)
  exact ⟨hstart (startReceive .arith ctrl s), hstart (startReceive .crc ctrl s), hstart (startReceive .gmode ctrl s),
    hstart (startTransmit use1k ctrl s)⟩

/-- Settles O19: a listed sample of 0 goes on to where `CheckPoint.onward` says, a read has the timer of its point. -/
theorem checkPointsAndReads : Obligations.CheckPointsAndReads := by
  intro s hb ht
  refine ⟨fun h rest hcs ha => ?_, fun p rest hcs ha => ?_, fun p r answers hcs hr => ?_, fun p x rest hcs ha => ?_⟩
  · rw [step_check_at_turn hb ht hcs ha]
    cases h <;> rfl
  · exact step_check_at_turn hb ht hcs ha
  · rw [step_recv_at_turn hb ht hcs hr]
    cases p <;> rfl
  · exact step_check_at_turn hb ht hcs ha

/-- Settles O50: the two points that record a Store or a Fetch have the role by the invariant, and their counts are
bounded by `min_bsize_remaining_le`. -/
theorem storeAndFetchWhereAllowed : Obligations.StoreAndFetchWhereAllowed := by
  intro s t hI hstep
  obtain ⟨hblock, hdue⟩ := min_bsize_remaining_le hI
  refine ⟨fun l ht => ?_, fun c l ht => ?_⟩
  · obtain ⟨hb, hcs, hl⟩ := step_stores hstep ht
    obtain ⟨⟨⟨hrole, -⟩, -⟩, -⟩ : s.inBody ∧ _ := hI.pointInv_at hcs
    exact ⟨hb, hrole, hcs, hl.trans_le hblock, hl.trans_le hdue⟩
  · obtain ⟨hb, hcs, rfl, hl⟩ := step_fetches hstep ht
    obtain ⟨⟨hrole, -⟩, -⟩ : s.transmitting ∧ _ := hI.pointInv_at hcs
    exact ⟨hb, hrole, hcs, hblock, hdue, hl⟩

/-- Settles O53, by the accesses of a running block; every word written to CMD is ignored there. -/
theorem hostCannotDisturbASession : Obligations.HostCannotDisturbASession := by
  refine ⟨fun s t a hb hc hturn h => ?_, fun s w hb => ⟨?_, fun i hd => ?_⟩⟩
  · rw [step_host s a hc hturn] at h
    exact hostAccess_running_length (s := popTurn s) hb h
  · exact runCode_cmdWord_ignored w (s := s.record (.hostWr .cmd w)) hb
  · rw [← runCode_of_decode hd, runCode_cmdWord_ignored w hb]

end Sys2Proof.Machine

/-! SUPPORT. How a session ends, and that a transmitter left alone gets on: the two ends of a running session; then a
number for each point of the transmitter's listing that every move lowers until a packet is acknowledged or the session
is over. -/

namespace Sys2Proof.Machine

section ends
variable {s t : State}

/-! ### The ends of a session -/

/-- R302: `Terminate` is the one move after which no session runs. -/
theorem Moves.terminates (h : Moves s t) (hb : s.busy = true) (ht : t.busy = false) :
    ∃ o, s.cs = .finish o ∧ t = terminate o s := by
  obtain ⟨hbusy, -, -⟩ | ⟨o, rfl⟩ := h.running_cases
  · exact absurd (hb.symm.trans (hbusy.symm.trans ht)) nofun
  · exact h.cs_ne_idle.resolve_left (absurd rfl)

/-- R302: the sequencer ends a session by `Terminate` alone. -/
theorem runPoint_terminates (h : runPoint s = .next t) (hb : s.busy = true) (ht : t.busy = false) :
    ∃ o, s.cs = .finish o ∧ t = terminate o s := by
  obtain rfl | ⟨-, hm⟩ := runPoint_cases h
  · exact absurd (hb.symm.trans ht) nofun
  · exact hm.terminates hb ht

/-- R302, R331: a step that ends a session is `Terminate` or the reset input. -/
theorem step_ends_cases (h : step s = .next t) (hb : s.busy = true) (ht : t.busy = false) :
    (∃ o q, s.cs = .finish o ∧ t = terminate o { s with sched := q })
      ∨ (s.turn = .reset ∧ t = hwReset (popTurn s)) := by
  have hrunning {p : Prop} (hbusy : t.busy = s.busy) : p := absurd (hb.symm.trans (hbusy.symm.trans ht)) nofun
  obtain ⟨-, h⟩ | ⟨-, -, h⟩ | ⟨-, a, -, h⟩ | ⟨-, hturn, h⟩ | ⟨-, -, h⟩ | ⟨-, -, h⟩ := step_cases h
  · obtain ⟨o, hcs, rfl⟩ := runPoint_terminates h hb ht
    exact .inl ⟨o, s.sched, hcs, rfl⟩
  · obtain ⟨o, hcs, rfl⟩ := runPoint_terminates (s := popTurn s) h hb ht
    exact .inl ⟨o, s.sched.tail, hcs, rfl⟩
  · obtain ⟨l, e, rfl⟩ := hostAccess_running (s := popTurn s) hb h
    exact hrunning rfl
  · cases h
    exact .inr ⟨hturn, rfl⟩
  all_goals
    cases h
    exact hrunning rfl

end ends

section transmitter
variable {s t : State}

/-! ### A bound of the steps left to a transmitter -/

/-- R203: twelve steps for each negotiation attempt left, above the steps of a whole packet. -/
def State.negotiationRank (s : State) : Nat := 26258 + 12 * (16 - s.att)

/-- R209: 1050 steps for each transmission of the packet left, enough for the longest frame and its response. -/
def State.packetRank (s : State) : Nat := 1050 * (25 - s.tries)

/-- R214: eight steps for each EOT left. -/
def State.eotRank (s : State) : Nat := 8 * (10 - s.eotn)

/-- A bound of the steps left at a point of the transmitter's listing, from those left to the negotiation (n), to the
packet (p) and to the EOT phase (e); 0 at TX_ACKED and at the receiver's points. -/
def Cs.transmitRank (n p e : Nat) : Cs → Nat
  | .check (.before .txNeg) => n + 10
  | .recv .txNeg => n + 9
  | .check (.after .txNeg _) => n + 8
  | .answer .txNeg _ => n + 7
  | .check (.before .txNegCan) => n + 6
  | .recv .txNegCan => n + 5
  | .check (.after .txNegCan _) => n + 4
  | .answer .txNegCan _ => n + 3
  | .check (.head .txNHead) => n + 2
  | .txNegTest => n + 1
  | .txBlock => 26258
  | .txFetch => 26257
  | .check (.before .txRsp) => p + 14
  | .recv .txRsp => p + 13
  | .check (.after .txRsp _) => p + 12
  | .answer .txRsp _ => p + 11
  | .check (.before .txRspCan) => p + 10
  | .recv .txRspCan => p + 9
  | .check (.after .txRspCan _) => p + 8
  | .answer .txRspCan _ => p + 7
  | .check (.head .txSHead) => p + 6
  | .txCapTest => p + 5
  | .txSend i => p - i
  | .txEot => 85
  | .check (.before .txEot) => e + 8
  | .recv .txEot => e + 7
  | .check (.after .txEot _) => e + 6
  | .answer .txEot _ => e + 5
  | .check (.head .txEHead) => e + 4
  | .txEotTest => e + 3
  | .txSendEot => e + 2
  | .can3 k _ => 4 - k
  | .flush .txCancel => 2
  | .finish _ => 1
  | _ => 0

/-- A bound of the steps that are left to a transmitter until a packet is acknowledged or the session is over. -/
def State.transmitRank (s : State) : Nat := s.cs.transmitRank s.negotiationRank s.packetRank s.eotRank

theorem State.transmitRank_at {c : Cs} (h : s.cs = c) :
    s.transmitRank = c.transmitRank s.negotiationRank s.packetRank s.eotRank := by
  rw [State.transmitRank, h]

theorem State.negotiationRank_le (s : State) : s.negotiationRank ≤ 26450 := by
  unfold State.negotiationRank
  omega

theorem State.packetRank_le (s : State) : s.packetRank ≤ 26250 := by
  unfold State.packetRank
  omega

theorem State.eotRank_le (s : State) : s.eotRank ≤ 80 := by
  unfold State.eotRank
  omega

theorem State.transmitRank_le (s : State) : s.transmitRank ≤ 26460 := by
  have hn := s.negotiationRank_le
  have hp := s.packetRank_le
  have he := s.eotRank_le
  unfold State.transmitRank Cs.transmitRank
  split <;> omega

/-- R209: what is left for the packet covers the sending of its frame. -/
theorem State.packetRank_covers_frame {i : Nat} (ht : s.tries < 25) (hi : i < frameLength s.bsize s.tsize) :
    State.packetRank { s with tries := s.tries + 1 } + 1050 = s.packetRank ∧ i < 1029 := by
  have hfit : frameLength s.bsize s.tsize ≤ 1029 := frameLength_le _ _
  simp only [State.packetRank]
  omega

/-! ### The points of a transmitter session -/

/-- The reads of a transmitter are counted, with the check points around them. -/
theorem State.readInv.transmitRank_pos {p : ReadPoint} (h : s.readInv p) (hr : s.role = .transmitting) (n q e : Nat) :
    0 < (Cs.check (.before p)).transmitRank n q e ∧ 0 < (Cs.recv p).transmitRank n q e
      ∧ ∀ r, 0 < (Cs.check (.after p r)).transmitRank n q e ∧ 0 < (Cs.answer p r).transmitRank n q e := by
  cases p with
  | rxHdr | rxCan => exact absurd hr (show s.receiving from h).not_transmitting
  | rxBody k =>
    obtain ⟨⟨hreceiving, -⟩, -⟩ : s.inBody ∧ _ := h
    exact absurd hr hreceiving.not_transmitting
  | _ => simp [Cs.transmitRank]

theorem State.headInv.transmitRank_pos {l : LoopHead} (h : s.headInv l) (hr : s.role = .transmitting) (n q e : Nat) :
    0 < (Cs.check (.head l)).transmitRank n q e := by
  cases l with
  | rxHead => exact absurd hr (show s.receiving from h).not_transmitting
  | _ => simp [Cs.transmitRank]

/-- Every point of a transmitter session but TX_ACKED is counted. -/
theorem State.Inv.transmitRank_pos (hI : s.Inv) (hb : s.busy = true) (hr : s.role = .transmitting)
    (ha : s.cs ≠ .txAcked) : 0 < s.transmitRank := by
  cases hcs : s.cs with
  | idle => exact absurd hcs (hI.busy_iff.mp hb)
  | txAcked => exact absurd hcs ha
  | check c =>
    have hc := hI.pointInv_at hcs
    rw [State.transmitRank_at hcs]
    rcases c with l | p | ⟨p, r⟩
    · exact State.headInv.transmitRank_pos hc hr _ _ _
    · obtain ⟨hbefore, -, -⟩ := State.readInv.transmitRank_pos hc hr _ _ _
      exact hbefore
    · obtain ⟨-, -, hread⟩ := State.readInv.transmitRank_pos hc hr _ _ _
      exact (hread r).1
  | recv p =>
    obtain ⟨-, hrecv, -⟩ := State.readInv.transmitRank_pos (hI.pointInv_at hcs) hr _ _ _
    rwa [State.transmitRank_at hcs]
  | answer p r =>
    obtain ⟨-, -, hread⟩ := State.readInv.transmitRank_pos (hI.pointInv_at hcs) hr _ _ _
    rw [State.transmitRank_at hcs]
    exact (hread r).2
  | rxWait | rxTest | nak => exact absurd hr (hI.pointInv_at hcs : s.receiving).not_transmitting
  | rxNeg | rxCount | rxBody | ack =>
    obtain ⟨hreceiving, -⟩ : s.receiving ∧ _ := hI.pointInv_at hcs
    exact absurd hr hreceiving.not_transmitting
  | rxClassify | rxStore =>
    obtain ⟨⟨hreceiving, -⟩, -⟩ : s.inBody ∧ _ := hI.pointInv_at hcs
    exact absurd hr hreceiving.not_transmitting
  | flush site =>
    have hsite := hI.pointInv_at hcs
    rw [State.transmitRank_at hcs]
    cases site with
    | rxCancel => exact absurd hr (show s.receiving from hsite).not_transmitting
    | retryExceeded => exact absurd (hr.symm.trans hsite) nofun
    | txCancel => simp [Cs.transmitRank]
  | can3 k o =>
    have hk : k < 3 := (hI.pointInv_at hcs : k < 3 ∧ _).1
    rw [State.transmitRank_at hcs, Cs.transmitRank]
    omega
  | txSend i =>
    obtain ⟨-, htries, hi⟩ : s.packetBuilt ∧ s.tries < 25 ∧ i < frameLength s.bsize s.tsize := hI.pointInv_at hcs
    have hleft := State.packetRank_covers_frame htries hi
    rw [State.transmitRank_at hcs, Cs.transmitRank]
    omega
  | _ => rw [State.transmitRank_at hcs]; simp [Cs.transmitRank]

/-! ### Every move of a transmitter gets on -/

/-- R281: a check point of a transmitter is above what follows its sample. -/
theorem CheckPoint.transmitRank_onward (c : CheckPoint) {n p e : Nat} (h : 0 < (Cs.check c).transmitRank n p e)
    (v : Bool) :
    0 < (if v then .finish .userAborted else c.onward : Cs).transmitRank n p e
      ∧ (if v then .finish .userAborted else c.onward : Cs).transmitRank n p e < (Cs.check c).transmitRank n p e := by
  rcases c with l | q | ⟨q, r⟩
  · cases l with
    | rxHead => exact absurd h (lt_irrefl 0)
    | _ => cases v <;> simp [CheckPoint.onward, Cs.transmitRank]
  all_goals
    cases q with
    | rxHdr | rxCan | rxBody => exact absurd h (lt_irrefl 0)
    | _ => cases v <;> simp [CheckPoint.onward, Cs.transmitRank]

theorem ReadPoint.transmitRank_after (q : ReadPoint) {n p e : Nat} (h : 0 < (Cs.recv q).transmitRank n p e)
    (r : Answer) :
    0 < (Cs.check (.after q r)).transmitRank n p e
      ∧ (Cs.check (.after q r)).transmitRank n p e < (Cs.recv q).transmitRank n p e := by
  cases q with
  | rxHdr | rxCan | rxBody => exact absurd h (lt_irrefl 0)
  | _ => simp [Cs.transmitRank]

/-- Where a move leaves the counters, CS alone decides; mostly by the order of the two points in `Cs.transmitRank`. -/
theorem transmitRank_lt_of_cs {c : Cs} (h : s.cs = c) (c' : Cs)
    (h' : t.transmitRank = c'.transmitRank s.negotiationRank s.packetRank s.eotRank)
    (hc : ∀ n p e, 26258 ≤ n → 0 < c'.transmitRank n p e ∧ c'.transmitRank n p e < c.transmitRank n p e := by
      simp [Cs.transmitRank]) :
    0 < t.transmitRank ∧ t.transmitRank < s.transmitRank := by
  rw [State.transmitRank_at h, h']
  exact hc _ _ _ (Nat.le_add_right _ _)

/-- R203, R206: an attempt is counted before its read, so that one less is left. -/
theorem negotiationTest_transmitRank_lt (h : s.cs = .txNegTest) (hatt : s.att ≤ 16) :
    0 < (negotiationTest s).transmitRank ∧ (negotiationTest s).transmitRank < s.transmitRank := by
  obtain e | ⟨hne, e⟩ := negotiationTest_cases s <;> rw [e]
  · exact transmitRank_lt_of_cs h (.can3 0 .syncError) rfl fun n p e hn => by simp only [Cs.transmitRank]; omega
  · have hlt : s.att < 16 := lt_of_le_of_ne hatt hne
    have hattempt : State.transmitRank { s with att := s.att + 1, cs := .check (.before .txNeg) }
        = 26258 + 12 * (16 - (s.att + 1)) + 10 := rfl
    rw [State.transmitRank_at h, hattempt, Cs.transmitRank, State.negotiationRank]
    omega

/-- R209: the cap leads to TRANSMIT_ERROR; below it a transmission is left. -/
theorem capTest_transmitRank_lt (h : s.cs = .txCapTest) (hle : s.tries ≤ 25) :
    0 < (capTest s).transmitRank ∧ (capTest s).transmitRank < s.transmitRank := by
  unfold capTest
  split
  · exact transmitRank_lt_of_cs h (.can3 0 .transmitError) rfl
  · have hlt : s.tries < 25 := lt_of_le_of_ne hle ‹_›
    have hsend : (s.goto (.txSend 0)).transmitRank = 1050 * (25 - s.tries) := rfl
    rw [State.transmitRank_at h, hsend, Cs.transmitRank, State.packetRank]
    omega

/-- R209, R210: the next byte is sent, or the transmission is counted and its response awaited. -/
theorem sendFrameByte_transmitRank_lt {i : Nat} (h : s.cs = .txSend i) (ht : s.tries < 25)
    (hi : i < frameLength s.bsize s.tsize) (b : Byte) :
    (sendFrameByte i b s).cs = .txAcked
      ∨ (0 < (sendFrameByte i b s).transmitRank ∧ (sendFrameByte i b s).transmitRank < s.transmitRank) := by
  obtain ⟨hleft, hbyte⟩ := State.packetRank_covers_frame ht hi
  have hrank : s.transmitRank = s.packetRank - i := State.transmitRank_at h
  obtain ⟨hmore, e⟩ | e := sendFrameByte_cases i b s <;> rw [e]
  · have hnext : (send b (.txSend (i + 1)) s).transmitRank = s.packetRank - (i + 1) := rfl
    rw [hnext, hrank]
    omega
  · split
    · exact .inl rfl
    · have hresponse : (send b (.check (.before .txRsp)) { s with tries := s.tries + 1 }).transmitRank
          = State.packetRank { s with tries := s.tries + 1 } + 14 := rfl
      rw [hresponse, hrank]
      omega

/-- R214: an EOT is counted when it is sent, so that one less is left. -/
theorem eotSent_transmitRank_lt (h : s.cs = .txSendEot) (hlt : s.eotn < 10) :
    0 < (send Config.eot (.check (.before .txEot)) { s with eotn := s.eotn + 1 }).transmitRank
      ∧ (send Config.eot (.check (.before .txEot)) { s with eotn := s.eotn + 1 }).transmitRank < s.transmitRank := by
  have hsent : (send Config.eot (.check (.before .txEot)) { s with eotn := s.eotn + 1 }).transmitRank
      = 8 * (10 - (s.eotn + 1)) + 8 := rfl
  rw [State.transmitRank_at h, hsent, Cs.transmitRank, State.eotRank]
  omega

/-- R205, R211: the second CAN leads to the end, any other answer to the loop's head. -/
theorem secondCanTx_transmitRank_lt {q : ReadPoint} {r : Answer} {l : LoopHead} (h : s.cs = .answer q r)
    (hq : (q = .txNegCan ∧ l = .txNHead) ∨ (q = .txRspCan ∧ l = .txSHead)) :
    0 < (secondCanTx l r s).transmitRank ∧ (secondCanTx l r s).transmitRank < s.transmitRank := by
  refine transmitRank_lt_of_cs h (if r = .byte Config.can then .flush .txCancel else .check (.head l)) rfl
    fun n p e hn => ?_
  obtain ⟨rfl, rfl⟩ | ⟨rfl, rfl⟩ := hq <;> split <;> simp only [Cs.transmitRank] <;> omega

/-- A move of a transmitter acknowledges a packet or comes nearer to that or to the session's end. -/
theorem Moves.transmitRank_lt (h : Moves s t) (hI : s.Inv) (ht : t.cs ≠ .idle) (hr : 0 < s.transmitRank) :
    t.cs = .txAcked ∨ (0 < t.transmitRank ∧ t.transmitRank < s.transmitRank) := by
  cases h with
  | responseAck => exact .inl rfl
  | finished => exact absurd rfl ht
  | checked c v ab d h =>
    rw [State.transmitRank_at h] at hr ⊢
    exact .inr (c.transmitRank_onward hr v)
  | received q r _ _ h =>
    rw [State.transmitRank_at h] at hr ⊢
    exact .inr (q.transmitRank_after hr r)
  | selected m _ _ h =>
    exact .inr (transmitRank_lt_of_cs h .txBlock rfl fun n p e hn => by simp only [Cs.transmitRank]; omega)
  | negotiationCan _ h => exact .inr (transmitRank_lt_of_cs h (.check (.before .txNegCan)) rfl)
  | negotiationOther _ h => exact .inr (transmitRank_lt_of_cs h (.check (.head .txNHead)) rfl)
  | secondCanNeg _ h => exact .inr (secondCanTx_transmitRank_lt h (.inl ⟨rfl, rfl⟩))
  | responseCan _ h => exact .inr (transmitRank_lt_of_cs h (.check (.before .txRspCan)) rfl)
  | responseOther _ h => exact .inr (transmitRank_lt_of_cs h (.check (.head .txSHead)) rfl)
  | secondCanRsp _ h => exact .inr (secondCanTx_transmitRank_lt h (.inr ⟨rfl, rfl⟩))
  | eotAck _ h => exact .inr (transmitRank_lt_of_cs h (.finish .done) rfl)
  | eotOther _ h => exact .inr (transmitRank_lt_of_cs h (.check (.head .txEHead)) rfl)
  | cancelled k o h =>
    have hk : k < 3 := (hI.pointInv_at h : k < 3 ∧ _).1
    refine .inr (transmitRank_lt_of_cs h (if k + 1 < 3 then .can3 (k + 1) o else .finish o) rfl fun n p e hn => ?_)
    split <;> simp only [Cs.transmitRank] <;> omega
  | flushed site h =>
    cases site with
    | txCancel =>
      exact .inr (transmitRank_lt_of_cs h (.finish .remoteCancelled) rfl)
    | rxCancel | retryExceeded => simp [State.transmitRank_at h, Cs.transmitRank] at hr
  | negotiationTested h => exact .inr (negotiationTest_transmitRank_lt h hI.att_le)
  | blockChosen h =>
    obtain ⟨-, e⟩ | ⟨-, e⟩ := chooseBlock_cases s <;> rw [e]
    · exact .inr (transmitRank_lt_of_cs h .txEot rfl)
    · exact .inr (transmitRank_lt_of_cs h .txFetch rfl)
  | fetchedNothing _ _ h => exact .inr (transmitRank_lt_of_cs h .txEot rfl)
  | built l src d h =>
    rw [State.transmitRank_at h]
    exact .inr (show 0 < 1050 * (25 - 0) + 6 ∧ 1050 * (25 - 0) + 6 < 26257 by decide)
  | capTested h => exact .inr (capTest_transmitRank_lt h hI.tries_le)
  | frameByteSent i b h =>
    obtain ⟨-, htries, hi⟩ : s.packetBuilt ∧ s.tries < 25 ∧ i < frameLength s.bsize s.tsize := hI.pointInv_at h
    exact sendFrameByte_transmitRank_lt h htries hi b
  | eotEntered h =>
    rw [State.transmitRank_at h]
    exact .inr (show 0 < 8 * (10 - 0) + 4 ∧ 8 * (10 - 0) + 4 < 85 by decide)
  | eotTested h =>
    refine .inr (transmitRank_lt_of_cs h (if s.eotn = 10 then .finish .noFinalAck else .txSendEot) rfl
      fun n p e hn => ?_)
    split <;> simp [Cs.transmitRank]
  | eotSent h =>
    obtain ⟨-, -, hlt⟩ : s.transmitting ∧ s.ctrl = false ∧ s.eotn < 10 := hI.pointInv_at h
    exact .inr (eotSent_transmitRank_lt h hlt)
  | _ => simp [State.transmitRank, Cs.transmitRank, *] at hr

/-! ### A transmitter left alone -/

/-- R284: the source's answer exceeds the capacity at the next step. -/
def State.overruns (s : State) : Prop := step s = .refused .sourceOverrun

/-- A packet is acknowledged, or the session is over with an outcome. -/
def State.acknowledgedOrOver (s : State) : Prop :=
  (s.busy = true ∧ s.cs = .txAcked) ∨ (s.busy = false ∧ s.outcome ≠ .none)

/-- R52: a listed answer that does not fit is longer than the capacity. -/
theorem State.exists_src_of_not_fits (h : ¬ s.sourceFits = true) :
    ∃ l rest, s.src = l :: rest ∧ s.fetchCapacity < l.length := by
  unfold State.sourceFits at h
  split at h
  · exact ⟨_, _, ‹_›, by simpa using h⟩
  · exact absurd rfl h

/-- R284: only an overrun of the source stops a session that is left alone. -/
theorem State.leftAlone.step_next (h : s.leftAlone) (hno : ¬ s.overruns) : ∃ t, step s = .next t := by
  obtain ⟨hI, hb, hu⟩ := h
  rw [State.overruns, step_undisturbed hu] at hno
  rw [step_undisturbed hu]
  refine hI.runPoint_next fun hcs => ?_
  by_contra hfits
  obtain ⟨l, rest, hsrc, hl⟩ := s.exists_src_of_not_fits hfits
  exact hno ((runPoint_txFetch hb hcs).trans (fetchBlock_overrun hsrc hl))

/-- Where a step does not lead to `IDLE`, the session is still left alone. -/
theorem State.leftAlone.of_step (h : s.leftAlone) (hs : step s = .next t) (hm : Moves s t) (hcs : t.cs ≠ .idle) :
    t.leftAlone := by
  obtain ⟨hI, -, hidle, hcompletes⟩ := h
  obtain ⟨hsched, hhung⟩ := hm.surroundings
  have hI' := step_keepsInv hI hs
  exact ⟨hI', hI'.busy_iff.mpr hcs, hsched.trans hidle, hhung.trans hcompletes⟩

/-- A step of a transmitter left alone acknowledges a packet, ends the session, or comes nearer to one of them. -/
theorem State.leftAlone.transmitter_step (h : s.leftAlone) (hno : ¬ s.overruns) (hr : 0 < s.transmitRank) :
    ∃ t, step s = .next t
      ∧ (t.acknowledgedOrOver ∨ (t.leftAlone ∧ 0 < t.transmitRank ∧ t.transmitRank < s.transmitRank)) := by
  obtain ⟨t, hs⟩ := h.step_next hno
  have ⟨hI, hb, hu⟩ := h
  have hm : Moves s t := hI.moves hb ((step_undisturbed hu).symm.trans hs)
  refine ⟨t, hs, ?_⟩
  obtain hcs | ⟨o, hfinish, rfl⟩ := hm.cs_ne_idle
  · have ht := h.of_step hs hm hcs
    obtain hacked | hlt := hm.transmitRank_lt hI hcs hr
    · exact .inl (.inl ⟨ht.2.1, hacked⟩)
    · exact .inr ⟨ht, hlt⟩
  · exact .inl (.inr ⟨rfl, OutcomeCode.ne_none_of_endsSession (r := s.role) (hI.pointInv_at hfinish)⟩)

/-- A transmitter left alone gets on, or meets an overrun of its source, within its rank. -/
theorem State.leftAlone.exists_steps_transmitter (h : s.leftAlone) (hr : 0 < s.transmitRank) :
    ∃ n t, n ≤ s.transmitRank ∧ steps n s = .next t ∧ (t.acknowledgedOrOver ∨ t.overruns) := by
  by_cases hno : s.overruns
  · exact ⟨0, s, Nat.zero_le _, rfl, .inr hno⟩
  · refine exists_steps_of_rank (P := fun v => v.leftAlone ∧ ¬ v.overruns) State.transmitRank ?_ ⟨h, hno⟩ hr
    rintro v ⟨hv, hnov⟩ hpos
    obtain ⟨t, hs, hend | ⟨ht, hlt⟩⟩ := hv.transmitter_step hnov hpos
    · exact ⟨t, hs, .inl (.inl hend)⟩
    · by_cases hnot : t.overruns
      · exact ⟨t, hs, .inl (.inr hnot)⟩
      · exact ⟨t, hs, .inr ⟨⟨ht, hnot⟩, hlt⟩⟩

end transmitter

/-! ### The obligations about the ends of a session -/

/-- Settles O17, by the primitive of `Terminate` at the sequencer's turn. -/
theorem terminateWritesOutcomeAndBusy : Obligations.TerminateWritesOutcomeAndBusy := by
  intro s o hb h ht
  rw [step_event_at ht h rfl, runPoint_finish (s := popTurn s) hb h]
  rfl

/-- Settles O52: the invariant gives the outcome of the role at `Terminate`, and the only other end is the reset
input. -/
theorem sessionOutcomesByRole : Obligations.SessionOutcomesByRole := by
  intro s t hI hb h ht
  obtain ⟨o, q, hcs, rfl⟩ | ⟨hturn, rfl⟩ := step_ends_cases h hb ht
  · exact .inl ⟨hI.pointInv_at hcs, rfl, rfl, rfl, rfl, rfl⟩
  · exact .inr ⟨⟨_, sched_of_turn_reset hturn⟩, rfl, rfl⟩

/-- Settles O58: every point of a transmitter session but TX_ACKED has a rank, the step count is bounded by it, and an
overrun is one step more. -/
theorem transmitterAlwaysGetsOn : Obligations.TransmitterAlwaysGetsOn := by
  intro s hI hb hr hu
  by_cases ha : s.cs = .txAcked
  · exact ⟨0, Nat.zero_le _, .inl ⟨s, rfl, .inl ⟨hb, ha⟩⟩⟩
  · obtain ⟨n, t, hn, hsteps, hend | hover⟩ :=
      State.leftAlone.exists_steps_transmitter ⟨hI, hb, hu⟩ (hI.transmitRank_pos hb hr ha)
    all_goals have hle := hn.trans s.transmitRank_le
    · exact ⟨n, by omega, .inl ⟨t, hsteps, hend⟩⟩
    · exact ⟨n + 1, by omega, .inr ((steps_add n 1 hsteps).trans ((steps_one t).trans hover))⟩

end Sys2Proof.Machine

/-! SUPPORT. The reset input and the ports' waits: a listed reset, the points where a transaction may be outstanding, and
what a step does while one waits or never completes. -/

namespace Sys2Proof.Machine

section hazards
variable {s t : State}

/-! ### The reset input -/

/-- R331: between two events a reset at the head of the schedule is performed and taken off it. -/
theorem step_reset_listed {rest : List Turn} (hc : s.computing = false) (hs : s.sched = .reset :: rest) :
    step s = .next (hwReset { s with sched := rest }) := by
  rw [step_reset s hc (turn_of_sched_reset hs), popTurn, hs, List.tail_cons]

theorem hwReset_reset : hwReset State.reset = State.reset := rfl

/-! ### Outstanding transactions -/

/-- R337: the points of a `Recv`, a `Send`, a `Store` or a `Fetch`. -/
theorem Cs.waits_iff (c : Cs) :
    c.waits = true ↔ (∃ p, c = .recv p) ∨ c = .rxNeg ∨ (∃ site, c = .ack site) ∨ c = .nak ∨ (∃ k o, c = .can3 k o)
      ∨ (∃ i, c = .txSend i) ∨ c = .txSendEot ∨ c = .rxStore ∨ c = .txFetch := by
  cases c <;> simp [Cs.waits]

theorem State.onPort_iff (s : State) : s.onPort = true ↔ s.busy = true ∧ s.cs.waits = true :=
  Bool.and_eq_true_iff

theorem computing_of_onPort (h : s.onPort = true) : s.computing = false :=
  Bool.eq_false_iff.mpr fun hc => absurd ((onPort_of_computing hc).symm.trans h) nofun

theorem popTurn_of_sched_nil (hs : s.sched = []) : popTurn s = s := by
  unfold popTurn
  rw [show s.sched.tail = s.sched by rw [hs]; rfl]

/-- A hang on a transaction that hangs already adds nothing to a wait. -/
theorem popTurn_of_hung (hh : s.hung = true) : { popTurn s with hung := true } = popTurn s := by
  rw [← hh]
  rfl

/-- R337, I15: with a transaction that never completes, a step is a wait, a host access or the reset input. -/
theorem step_hung_cases (hI : s.Inv) (hh : s.hung = true) (h : step s = .next t) :
    t = popTurn s ∨ (∃ a, s.turn = .host a ∧ ∃ l e, t = { popTurn s with length := l, hist := e :: s.hist })
      ∨ (s.turn = .reset ∧ t = hwReset (popTurn s)) := by
  have hport := hI.hung_onPort hh
  have hb := (s.onPort_iff.mp hport).1
  obtain ⟨hc, -⟩ | ⟨-, ht, -⟩ | ⟨-, a, ht, h⟩ | ⟨-, ht, h⟩ | ⟨-, -, h⟩ | ⟨-, -, h⟩ := step_cases h
  · exact absurd ((computing_of_onPort hport).symm.trans hc) nofun
  · exact absurd ((hung_of_turn_seq ht hport).symm.trans hh) nofun
  · exact .inr (.inl ⟨a, ht, hostAccess_running (s := popTurn s) hb h⟩)
  · cases h
    exact .inr (.inr ⟨ht, rfl⟩)
  · cases h
    exact .inl rfl
  · cases h
    exact .inl (popTurn_of_hung hh)

/-- I15: with nothing scheduled, a transaction that never completes leaves the block where it is. -/
theorem step_of_hung (hI : s.Inv) (hh : s.hung = true) (hs : s.sched = []) : step s = .next s := by
  have hport := hI.hung_onPort hh
  have hturn : s.turn = .wait := by simp [State.turn, hs, hport, hh]
  rw [step_wait s (computing_of_onPort hport) hturn, popTurn_of_sched_nil hs]

theorem steps_of_step_self (h : step s = .next s) (n : Nat) : steps n s = .next s := by
  induction n with
  | zero => rfl
  | succ n ih => rw [steps_of_step n h, ih]

end hazards

/-! ### The obligations about reset and the ports' waits -/

/-- Settles O16: the state at power-on is what the reset input makes of itself, so both are values of `hwReset`. -/
theorem resetValues : Obligations.ResetValues := by
  refine ⟨fun s h => ?_, fun s0 rest hc hs => ⟨_, step_reset_listed hc hs, hwReset_hist _⟩⟩
  obtain ⟨u, rfl⟩ : ∃ u, s = hwReset u := by
    obtain rfl | ⟨s0, rest, hc, hs, h⟩ := h
    · exact ⟨_, hwReset_reset.symm⟩
    · rw [step_reset_listed hc hs] at h
      cases h
      exact ⟨_, rfl⟩
  simp [State.reset]

/-- Settles O60: a port's turn needs a transaction outstanding, which excludes internal computation; once the transaction
hangs the sequencer has no turn, and the turn of an empty schedule is a wait. -/
theorem onlyAnOutstandingTransactionWaits : Obligations.OnlyAnOutstandingTransactionWaits := by
  refine ⟨fun s ht => ?_, fun s t hI hh h => ?_, fun s n hI hh hs => steps_of_step_self (step_of_hung hI hh hs) n⟩
  · have hport := onPort_of_turn ht
    obtain ⟨hb, hw⟩ := s.onPort_iff.mp hport
    have hc := computing_of_onPort hport
    exact ⟨hb, s.cs.waits_iff.mp hw, step_wait s hc, step_hang s hc⟩
  · obtain rfl | ⟨a, ht, l, e, rfl⟩ | ⟨ht, rfl⟩ := step_hung_cases hI hh h
    · exact .inr ⟨rfl, .inl ⟨rfl, rfl⟩⟩
    · exact .inr ⟨rfl, .inr ⟨a, _, sched_of_turn_host ht⟩⟩
    · exact .inl ⟨⟨_, sched_of_turn_reset ht⟩, rfl, rfl, rfl⟩

end Sys2Proof.Machine
